-- ==== Sys2Proof/Word.lean ====
section
/-! DEFINITION. The two widths of the block: the byte and the 16-bit word (spec 00_scope.md R7). -/

namespace Sys2Proof

/-- A byte: an unsigned 8-bit value (R7). -/
abbrev Byte := BitVec 8

/-- A word16: an unsigned 16-bit value, the width of the checksum (R7, R5 `CRC_WIDTH`). -/
abbrev Word16 := BitVec 16

end Sys2Proof
end

