-- ==== Sys2Proof/Config.lean ====
section
/-! DEFINITION. What is fixed for a machine: the layout parameters of R5 that conflict C1 turns on, and the
free values, which the spec leaves to the environment. The values of the parameters stand in Machine/Operands.lean. -/

namespace Sys2Proof

/-- The header layout parameters of 00_scope.md R5, held as fields so that the other reading of conflict C1 can be
instantiated without touching the semantics. -/
structure Config where
  /-- `TX_HDR_LEN`: header bytes the encoder writes before the payload (R52). -/
  txHdrLen : Nat
  /-- `RX_MIN_BODY`: least body length that is checked for a checksum (R54). -/
  rxMinBody : Nat
  /-- `RX_POS_ADDR` (R54). -/
  rxPosAddr : Nat
  /-- `RX_POS_TYPE` (R54). -/
  rxPosType : Nat
  /-- `RX_POS_REG` (R54). -/
  rxPosReg : Nat
  /-- `RX_PAYLOAD_START`: body index of the first payload byte on receive (R54). -/
  rxPayloadStart : Nat
  /-- `CRC_LEN`: checksum bytes at the end of a body (R52). -/
  crcLen : Nat
  deriving DecidableEq, Repr

/-- What one `ChanRead()` answers (20_memory.md R31). -/
inductive ReadOutcome
  /-- `Byte(b)`: the byte was removed from the channel. -/
  | byte (b : Byte)
  /-- `Timeout`: no byte arrived within the configured window. -/
  | timeout
  /-- `ConnLost`: the underlying channel reports a non-timeout failure. -/
  | connLost
  deriving DecidableEq, Repr, Inhabited

/-- FREE VALUE. What the transport answers to a read once the outcomes listed in State are used up (R35, U6: "any
value"). Applied to the counter `draws` of State; nothing is known of its values (log 10, log 22). -/
opaque Config.freeRead : Nat → ReadOutcome

/-- FREE VALUE. An unspecified byte: what a hardware reset leaves in each of the three expected bytes (R21, R150,
U8: "any value"). Applied to the counter `draws` of State (log 9, log 22). -/
opaque Config.freeByte : Nat → Byte

/-- FREE VALUE. The byte of a received header at a position that no field of BODY.RX names (R54, C1). In the layout of
Machine/Operands.lean no position is left over and nothing reads it (log 16). -/
opaque Config.freeHeaderByte : Nat → Byte

end Sys2Proof
end

