-- ==== Sys2Proof/Machine/Operands.lean ====
section
/-! DEFINITION. The constants of R5, the classes of bytes and codes, and the operand forms: how fields are laid into
bytes and read back out of them (spec 00_scope.md R5, R8; 30_encoding.md R50 to R59). -/

namespace Sys2Proof.Machine

/-- `SOT` (R50). -/
abbrev SOT : Byte := 0x0D#8
/-- `EOT` (R50). -/
abbrev EOT : Byte := 0x0A#8
/-- `SOE`, the escape marker (R50). -/
abbrev SOE : Byte := 0x5E#8
/-- `ECC`, the escape complement (R50). -/
abbrev ECC : Byte := 0x40#8
/-- `CRC_POLY` (R5, R70). -/
abbrev CRC_POLY : Word16 := 0x1021#16
/-- `CRC_INIT` (R5, R70). -/
abbrev CRC_INIT : Word16 := 0x0000#16

/-- The layout parameters of R5: conflict C1 resolved as decision D4 has it (log 16). -/
def layout : Config where
  txHdrLen := 4
  rxMinBody := 5
  rxPosAddr := 0
  rxPosType := 1
  rxPosReg := 2
  rxPayloadStart := 3
  crcLen := 2

/-- The reserved values, which are escaped on transmit (R51). -/
def reserved (v : Byte) : Bool := v == SOT || v == EOT || v == SOE

/-- The second bytes of the three pairs an encoder produces (R56). -/
def pairSecond (c : Byte) : Bool := c == 0x4D#8 || c == 0x4A#8 || c == 0x9E#8

/-- `WRITE_CLASS` (R59): the message types that carry a payload when encoded. -/
def writeClass (ty : Byte) : Bool := ty == 0x05#8 || ty == 0x06#8 || ty == 0x07#8 || ty == 0x09#8

/-- The eleven message type codes the source lists (R58). -/
def listedTypes : List Byte :=
  [0x00#8, 0x01#8, 0x02#8, 0x03#8, 0x04#8, 0x05#8, 0x06#8, 0x07#8, 0x08#8, 0x09#8, 0xFF#8]

/-- `hi8(w) = w[15:8]` (R8). -/
def hi8 (w : Word16) : Byte := w.extractLsb' 8 8

/-- `lo8(w) = w[7:0]` (R8). -/
def lo8 (w : Word16) : Byte := w.extractLsb' 0 8

/-- `be16(w) = [hi8(w), lo8(w)]`: the checksum as two bytes, high byte first (R8, R36). -/
def be16 (w : Word16) : List Byte := [hi8 w, lo8 w]

/-- `s[i ..< j]`, empty when `j <= i` (R8). -/
def slice (s : List Byte) (i j : Nat) : List Byte := (s.take j).drop i

/-- The payload a telegram of type `ty` carries on the wire (R59, R91: dropped unless write-class). -/
def carried (ty : Byte) (payload : List Byte) : List Byte := if writeClass ty then payload else []

/-- `WellFormedTelegram(type, payload)` (R91): what the caller of ENC.FRAME owes (R160). -/
def wellFormedTelegram (ty : Byte) (payload : List Byte) : Bool := writeClass ty || payload.isEmpty

/-- The unescaped bytes before the checksum, for the layout `c`: the `TX_HDR_LEN` header bytes and the payload (R52, R90). -/
def txContentWith (c : Config) (dest src ty reg : Byte) (payload : List Byte) : List Byte :=
  [dest, src, ty, reg].take c.txHdrLen ++ payload

/-- The unescaped bytes before the checksum (R52, R90). -/
def txContent (dest src ty reg : Byte) (payload : List Byte) : List Byte := txContentWith layout dest src ty reg payload

/-- The byte at position `i` of a received header, for the layout `c` (R54); a position that no field names is free (log 16). -/
def rxHeaderByte (c : Config) (addr ty reg : Byte) (i : Nat) : Byte :=
  if i = c.rxPosAddr then addr
  else if i = c.rxPosType then ty
  else if i = c.rxPosReg then reg
  else Config.freeHeaderByte i

/-- The fields of BODY.RX as the de-escaped body, for the layout `c`: a header up to `RX_PAYLOAD_START` (R54). -/
def rxBodyWith (c : Config) (addr ty reg : Byte) (payload : List Byte) (crcHi crcLo : Byte) : List Byte :=
  (List.range c.rxPayloadStart).map (rxHeaderByte c addr ty reg) ++ payload ++ [crcHi, crcLo]

/-- The fields of BODY.RX as the de-escaped body (R54). -/
def rxBody (addr ty reg : Byte) (payload : List Byte) (crcHi crcLo : Byte) : List Byte :=
  rxBodyWith layout addr ty reg payload crcHi crcLo

end Sys2Proof.Machine
end

