-- ==== Sys2Proof/Machine/Crc.lean ====
section
/-! DEFINITION. The checksum engine's functions (spec 40_crc.md R70 to R73). -/

namespace Sys2Proof.Machine

/-- One turn of the loop of R71: shift left, and reduce by the polynomial when bit 15 was set. -/
def crcShift (r : Word16) : Word16 := if r.getLsbD 15 then (r <<< 1) ^^^ CRC_POLY else r <<< 1

/-- `n` turns of the loop of R71. -/
def crcShifts : Nat → Word16 → Word16
  | 0, r => r
  | n + 1, r => crcShifts n (crcShift r)

/-- CRC.STEP(c, b) (R71): `b` enters the high byte of the running value, then eight turns. -/
def crcStep (c : Word16) (b : Byte) : Word16 := crcShifts 8 (c ^^^ (b.setWidth 16 <<< 8))

/-- The fold of CRC.STEP over a sequence from a running value (R72, R74 (d)). -/
def crcFrom (c : Word16) : List Byte → Word16
  | [] => c
  | b :: bs => crcFrom (crcStep c b) bs

/-- CRC.COMPUTE(bytes) (R72). -/
def crcCompute (bytes : List Byte) : Word16 := crcFrom CRC_INIT bytes

/-- CRC.VERIFY(bytes) (R73): no length test (D24). -/
def crcVerify (bytes : List Byte) : Bool := crcCompute bytes == 0x0000#16

end Sys2Proof.Machine
end

