-- ==== Sys2Proof/Machine/Flags.lean ====
section
/-! DEFINITION. The one flag of the block, `esc_pending` (spec 10_state.md R13), as the de-escaping step computes it
(41_escape_codec.md R82). The additions and subtractions of the codec set no flag (R13). -/

namespace Sys2Proof.Machine

/-- ESC.DEC.STEP(p, b) (R82): the new pending flag, and the byte to append, if any. The three cases are tested in the
order written; the subtraction is 8-bit and wraps (D3). -/
def escDecStep (p : Bool) (b : Byte) : Bool × Option Byte :=
  if b = SOE ∧ p = false then (true, none)
  else if p = true then (false, some (b - ECC))
  else (false, some b)

end Sys2Proof.Machine
end

