-- ==== Sys2Proof/Machine/Escape.lean ====
section
/-! DEFINITION. The escape codec's functions on bytes and sequences (spec 41_escape_codec.md R80, R81, R83; R82 is in
Flags.lean). -/

namespace Sys2Proof.Machine

/-- ESC.ENC(v) (R80): a reserved value becomes the pair `SOE, v + ECC` (R56). -/
def escEnc (v : Byte) : List Byte := if reserved v then [SOE, v + ECC] else [v]

/-- ESC.ENCSEQ(s) (R81): each byte on its own, in order. -/
def escEncSeq : List Byte → List Byte
  | [] => []
  | v :: s => escEnc v ++ escEncSeq s

/-- ESC.DEC.STEP over a sequence from a pending flag: the flag left, and the bytes put out in order (R82, R83). -/
def escDecFrom (p : Bool) : List Byte → Bool × List Byte
  | [] => (p, [])
  | b :: s =>
    let r := escDecStep p b
    let q := escDecFrom r.1 s
    (q.1, r.2.toList ++ q.2)

/-- ESC.DECSEQ(s) (R83): a pending escape at the end is dropped. -/
def escDecSeq (s : List Byte) : List Byte := (escDecFrom false s).2

end Sys2Proof.Machine
end

