-- ==== Sys2Proof/Machine/Frame.lean ====
section
/-! DEFINITION. The frame encoder's function (spec 42_frame_encoder.md R90, R91) and the wire form of a body (30_encoding.md R52). -/

namespace Sys2Proof.Machine

/-- `SOT · [escaped body] · EOT` (R52): the delimiters raw, every body byte escaped. -/
def wireFrame (body : List Byte) : List Byte := [SOT] ++ escEncSeq body ++ [EOT]

/-- The unescaped body of a telegram: the content, then its checksum over the unescaped bytes, high byte first
(R57, R90). -/
def withChecksum (content : List Byte) : List Byte := content ++ be16 (crcCompute content)

/-- ENC.FRAME(dest, src, type, reg, payload) (R90, R91). -/
def encFrame (dest src ty reg : Byte) (payload : List Byte) : List Byte :=
  wireFrame (withChecksum (txContent dest src ty reg (carried ty payload)))

end Sys2Proof.Machine
end

