-- ==== Sys2Proof/Syntax.lean ====
section
/-! DEFINITION. The instructions: one constructor for each row of spec/opcode_table.json, in the table's order. -/

namespace Sys2Proof

/-- The forms in which the table's rows are written down (its column `format`). The two rows of the format
"telegram" are split: TELEGRAM.TX is a wire telegram (R52), BODY.RX a de-escaped body (R54). A row of the format
"operation" has no bit encoding (92_eei_decisions.md D1). -/
inductive Format
  | wireByte
  | escapePair
  | typeCode
  | telegram
  | body
  | operation
  deriving DecidableEq, Repr

/-- The operations, events and codes of the block. -/
inductive Instr
  /-- SOT: the wire byte 0x0D (R51). -/
  | sot
  /-- EOT: the wire byte 0x0A (R51). -/
  | eot
  /-- SOE: the wire byte 0x5E (R51). -/
  | soe
  /-- DATA: any other wire byte (R51). -/
  | data (v : Byte)
  /-- ESC.SOT: the pair 0x5E 0x4D (R56). -/
  | escSot
  /-- ESC.EOT: the pair 0x5E 0x4A (R56). -/
  | escEot
  /-- ESC.SOE: the pair 0x5E 0x9E (R56). -/
  | escSoe
  /-- ESC.ANY: a pair 0x5E b no encoder sends (R61). -/
  | escAny (b : Byte)
  /-- TYPE.NACK, code 0x00 (R58). -/
  | typeNack
  /-- TYPE.CRC, code 0x01 (R58). -/
  | typeCrc
  /-- TYPE.BUSY, code 0x02 (R58). -/
  | typeBusy
  /-- TYPE.ACK, code 0x03 (R58). -/
  | typeAck
  /-- TYPE.RDCMD, code 0x04 (R58). -/
  | typeRdcmd
  /-- TYPE.WRCMD, code 0x05, write-class (R58, R59). -/
  | typeWrcmd
  /-- TYPE.WRSET, code 0x06, write-class (R58, R59). -/
  | typeWrset
  /-- TYPE.WRCLR, code 0x07, write-class (R58, R59). -/
  | typeWrclr
  /-- TYPE.DATAGRAM, code 0x08 (R58). -/
  | typeDatagram
  /-- TYPE.WRTGL, code 0x09, write-class (R58, R59). -/
  | typeWrtgl
  /-- TYPE.NONE, code 0xFF (R58). -/
  | typeNone
  /-- TYPE.UNLISTED: a code 0x0A to 0xFE, without a name (R60). -/
  | typeUnlisted (t : Byte)
  /-- TELEGRAM.TX: a transmitted telegram, by its unescaped fields (R52). -/
  | telegramTx (dest src ty reg : Byte) (payload : List Byte) (crcHi crcLo : Byte)
  /-- BODY.RX: a received body, by the fields the receiver indexes (R54). -/
  | bodyRx (addr ty reg : Byte) (payload : List Byte) (crcHi crcLo : Byte)
  /-- CRC.STEP (R71). -/
  | crcStep (c : Word16) (b : Byte)
  /-- CRC.COMPUTE (R72). -/
  | crcCompute (bytes : List Byte)
  /-- CRC.VERIFY (R73). -/
  | crcVerify (bytes : List Byte)
  /-- ESC.ENC (R80). -/
  | escEnc (v : Byte)
  /-- ESC.ENCSEQ (R81). -/
  | escEncSeq (bytes : List Byte)
  /-- ESC.DEC.STEP (R82). -/
  | escDecStep (p : Bool) (b : Byte)
  /-- ESC.DECSEQ (R83). -/
  | escDecSeq (bytes : List Byte)
  /-- ENC.FRAME (R90). -/
  | encFrame (dest src ty reg : Byte) (payload : List Byte)
  /-- RX.START (R100). -/
  | rxStart (addr ty reg : Byte)
  /-- RX.BYTE.HUNT_DISCARD: RX.BYTE of a byte other than 0x0D (R104). -/
  | rxHuntDiscard (b : Byte)
  /-- RX.BYTE.HUNT_SOT: RX.BYTE of 0x0D (R105). -/
  | rxHuntSot
  /-- RX.BYTE.EOT: RX.BYTE of 0x0A (R107). -/
  | rxByteEot
  /-- RX.BYTE.SOE: RX.BYTE of 0x5E (R108). -/
  | rxByteSoe
  /-- RX.BYTE.DATA: RX.BYTE of a byte other than 0x0A and 0x5E (R109). -/
  | rxByteData (b : Byte)
  /-- RX.BYTE.ESCDATA: RX.BYTE of a byte other than 0x0A (R110). -/
  | rxByteEscData (b : Byte)
  /-- RX.CLOSE.TOOSHORT (R111). -/
  | rxCloseTooShort
  /-- RX.CLOSE.CHECKSUMINVALID (R112). -/
  | rxCloseChecksumInvalid
  /-- RX.CLOSE.CONTENTMISMATCH (R113). -/
  | rxCloseContentMismatch
  /-- RX.CLOSE.READY (R114). -/
  | rxCloseReady
  /-- RX.FAIL.TIMEOUT (R115). -/
  | rxFailTimeout
  /-- RX.FAIL.CONNLOST (R116). -/
  | rxFailConnLost
  /-- RX.RUN (R117). -/
  | rxRun
  /-- REQUEST (R153). The master id `m` is not an operand: it is fixed at `open` (R154). -/
  | request (dest reg typeOut : Byte) (payloadOut : List Byte) (typeIn : Byte)
  /-- READREGISTER (R64). -/
  | readRegister (dest reg : Byte)
  /-- WRITEREGISTER (R64). -/
  | writeRegister (dest reg : Byte) (payload : List Byte)
  /-- RESET: the hardware reset (R150 (a)). -/
  | reset
  deriving DecidableEq, Repr

end Sys2Proof
end

