-- ==== Sys2Proof/WellFormed.lean ====
section
/-! DEFINITION. Which operands a row of spec/opcode_table.json admits (its column `source_fields`), where the operand's type
admits more. -/

namespace Sys2Proof

open Machine

/-- The operands are those the instruction's row and rule admit. -/
def wellFormed : Instr → Bool
  -- DATA: "any value other than 0x0D, 0x0A, 0x5E".
  | .data v => !reserved v
  -- ESC.ANY: not 0x0A, which closes the frame, and none of the three pairs with a row of their own (R61).
  | .escAny b => !pairSecond b && b != EOT
  -- TYPE.UNLISTED: "any value 0x0A..0xFE" (R60).
  | .typeUnlisted t => !listedTypes.contains t
  -- TELEGRAM.TX: as ENC.FRAME produces it, so no payload unless write-class (R59), and the checksum of the content (R57).
  | .telegramTx dest src ty reg payload crcHi crcLo =>
    wellFormedTelegram ty payload && [crcHi, crcLo] == be16 (crcCompute (txContent dest src ty reg payload))
  -- RX.BYTE.HUNT_DISCARD: "byte other than 0x0D" (R104).
  | .rxHuntDiscard b => b != SOT
  -- RX.BYTE.DATA: "byte other than 0x0A and 0x5E" (R109).
  | .rxByteData b => b != EOT && b != SOE
  -- RX.BYTE.ESCDATA: "byte other than 0x0A" (R110).
  | .rxByteEscData b => b != EOT
  -- The rest admit every value of their operands' types.
  | .sot => true
  | .eot => true
  | .soe => true
  | .escSot => true
  | .escEot => true
  | .escSoe => true
  | .typeNack => true
  | .typeCrc => true
  | .typeBusy => true
  | .typeAck => true
  | .typeRdcmd => true
  | .typeWrcmd => true
  | .typeWrset => true
  | .typeWrclr => true
  | .typeDatagram => true
  | .typeWrtgl => true
  | .typeNone => true
  | .bodyRx _ _ _ _ _ _ => true
  | .crcStep _ _ => true
  | .crcCompute _ => true
  | .crcVerify _ => true
  | .escEnc _ => true
  | .escEncSeq _ => true
  | .escDecStep _ _ => true
  | .escDecSeq _ => true
  | .encFrame _ _ _ _ _ => true
  | .rxStart _ _ _ => true
  | .rxHuntSot => true
  | .rxByteEot => true
  | .rxByteSoe => true
  | .rxCloseTooShort => true
  | .rxCloseChecksumInvalid => true
  | .rxCloseContentMismatch => true
  | .rxCloseReady => true
  | .rxFailTimeout => true
  | .rxFailConnLost => true
  | .rxRun => true
  | .request _ _ _ _ _ => true
  | .readRegister _ _ => true
  | .writeRegister _ _ _ => true
  | .reset => true

end Sys2Proof
end

