-- ==== Sys2Proof/Decode.lean ====
section
/-! DEFINITION. From bytes to instructions and back, for the rows that have an encoding (spec 30_encoding.md): the wire bytes, the
escape pairs, the type codes, the telegram and the received body. The operations have none (92_eei_decisions.md D1). -/

namespace Sys2Proof

open Machine

/-- Why bytes are not an instruction of a format. -/
inductive DecodeError
  /-- The format takes another number of bytes. -/
  | wrongLength
  /-- An escape pair begins with 0x5E and its second byte is not 0x0A (R56, R61). -/
  | notAPair
  /-- A telegram begins with 0x0D (R52). -/
  | noSot
  /-- A telegram ends with 0x0A (R52). -/
  | noEot
  /-- The bytes between the delimiters are not what the escaping transform produces (R86). -/
  | notCanonical
  /-- The body is shorter than its header and checksum (R52, R54). -/
  | shortBody
  /-- The checksum is not that of the content, or a payload is there and the type is not write-class (R57, R59). -/
  | notEncoded
  /-- The operations have no encoded form (D1). -/
  | noEncoding
  deriving DecidableEq, Repr

/-- One wire byte: the class of R51, decided by the whole byte. -/
def decodeWire (b : Byte) : Instr :=
  if b = SOT then .sot
  else if b = EOT then .eot
  else if b = SOE then .soe
  else .data b

/-- The event a read outcome is to the receiver (R101): a byte by its class, a failure by its kind. -/
def decodeOutcome : ReadOutcome → Instr
  | .byte b => decodeWire b
  | .timeout => .rxFailTimeout
  | .connLost => .rxFailConnLost

/-- An escape pair `0x5E, c` (R56, R61, R62). -/
def decodePair (first c : Byte) : Except DecodeError Instr :=
  if first ≠ SOE then .error .notAPair
  else if c = 0x4D#8 then .ok .escSot
  else if c = 0x4A#8 then .ok .escEot
  else if c = 0x9E#8 then .ok .escSoe
  else if c = EOT then .error .notAPair
  else .ok (.escAny c)

/-- A message type code (R58, R60). -/
def decodeType (t : Byte) : Instr :=
  if t = 0x00#8 then .typeNack
  else if t = 0x01#8 then .typeCrc
  else if t = 0x02#8 then .typeBusy
  else if t = 0x03#8 then .typeAck
  else if t = 0x04#8 then .typeRdcmd
  else if t = 0x05#8 then .typeWrcmd
  else if t = 0x06#8 then .typeWrset
  else if t = 0x07#8 then .typeWrclr
  else if t = 0x08#8 then .typeDatagram
  else if t = 0x09#8 then .typeWrtgl
  else if t = 0xFF#8 then .typeNone
  else .typeUnlisted t

/-- The payload and the two checksum bytes at the end of a body, after its header (R52, R54). -/
def splitTail (tail : List Byte) : Option (List Byte × Byte × Byte) :=
  match tail.drop (tail.length - layout.crcLen) with
  | [hi, lo] => some (tail.take (tail.length - layout.crcLen), hi, lo)
  | _ => none

/-- The unescaped body of a transmitted telegram, by index, for the layout `c` (R52). -/
def decodeTxBody (c : Config) (body : List Byte) : Except DecodeError Instr :=
  match body.take c.txHdrLen, splitTail (body.drop c.txHdrLen) with
  | [dest, src, ty, reg], some (payload, hi, lo) =>
    if wellFormed (.telegramTx dest src ty reg payload hi lo) then .ok (.telegramTx dest src ty reg payload hi lo)
    else .error .notEncoded
  | _, _ => .error .shortBody

/-- The bytes between the delimiters of a transmitted telegram: canonical, hence one body (R84, R86). -/
def decodeTxEscaped (mid : List Byte) : Except DecodeError Instr :=
  if escEncSeq (escDecSeq mid) = mid then decodeTxBody layout (escDecSeq mid) else .error .notCanonical

/-- A wire telegram (R52), as ENC.FRAME writes it (log 21). -/
def decodeTelegram : List Byte → Except DecodeError Instr
  | [] => .error .wrongLength
  | first :: rest =>
    if first ≠ SOT then .error .noSot
    else if rest.getLast? ≠ some EOT then .error .noEot
    else decodeTxEscaped rest.dropLast

/-- A received de-escaped body, by index, for the layout `c` (R54). -/
def decodeRxBody (c : Config) (body : List Byte) : Except DecodeError Instr :=
  match body[c.rxPosAddr]?, body[c.rxPosType]?, body[c.rxPosReg]?, splitTail (body.drop c.rxPayloadStart) with
  | some addr, some ty, some reg, some (payload, hi, lo) => .ok (.bodyRx addr ty reg payload hi lo)
  | _, _, _, _ => .error .shortBody

/-- The decoder: the bytes of one item of a format, whole. -/
def decode : Format → List Byte → Except DecodeError Instr
  | .wireByte, [b] => .ok (decodeWire b)
  | .wireByte, _ => .error .wrongLength
  | .escapePair, [a, c] => decodePair a c
  | .escapePair, _ => .error .wrongLength
  | .typeCode, [t] => .ok (decodeType t)
  | .typeCode, _ => .error .wrongLength
  | .telegram, bs => decodeTelegram bs
  | .body, bs => decodeRxBody layout bs
  | .operation, _ => .error .noEncoding

/-- The format of an instruction's row. -/
def formatOf : Instr → Format
  | .sot => .wireByte
  | .eot => .wireByte
  | .soe => .wireByte
  | .data _ => .wireByte
  | .escSot => .escapePair
  | .escEot => .escapePair
  | .escSoe => .escapePair
  | .escAny _ => .escapePair
  | .typeNack => .typeCode
  | .typeCrc => .typeCode
  | .typeBusy => .typeCode
  | .typeAck => .typeCode
  | .typeRdcmd => .typeCode
  | .typeWrcmd => .typeCode
  | .typeWrset => .typeCode
  | .typeWrclr => .typeCode
  | .typeDatagram => .typeCode
  | .typeWrtgl => .typeCode
  | .typeNone => .typeCode
  | .typeUnlisted _ => .typeCode
  | .telegramTx _ _ _ _ _ _ _ => .telegram
  | .bodyRx _ _ _ _ _ _ => .body
  | .crcStep _ _ => .operation
  | .crcCompute _ => .operation
  | .crcVerify _ => .operation
  | .escEnc _ => .operation
  | .escEncSeq _ => .operation
  | .escDecStep _ _ => .operation
  | .escDecSeq _ => .operation
  | .encFrame _ _ _ _ _ => .operation
  | .rxStart _ _ _ => .operation
  | .rxHuntDiscard _ => .operation
  | .rxHuntSot => .operation
  | .rxByteEot => .operation
  | .rxByteSoe => .operation
  | .rxByteData _ => .operation
  | .rxByteEscData _ => .operation
  | .rxCloseTooShort => .operation
  | .rxCloseChecksumInvalid => .operation
  | .rxCloseContentMismatch => .operation
  | .rxCloseReady => .operation
  | .rxFailTimeout => .operation
  | .rxFailConnLost => .operation
  | .rxRun => .operation
  | .request _ _ _ _ _ => .operation
  | .readRegister _ _ => .operation
  | .writeRegister _ _ _ => .operation
  | .reset => .operation

/-- The encoder: the bytes of an instruction of a format that has an encoding (R51, R52, R54, R56, R58). -/
def encode : Instr → Option (List Byte)
  | .sot => some [0x0D#8]
  | .eot => some [0x0A#8]
  | .soe => some [0x5E#8]
  | .data v => some [v]
  | .escSot => some [0x5E#8, 0x4D#8]
  | .escEot => some [0x5E#8, 0x4A#8]
  | .escSoe => some [0x5E#8, 0x9E#8]
  | .escAny b => some [0x5E#8, b]
  | .typeNack => some [0x00#8]
  | .typeCrc => some [0x01#8]
  | .typeBusy => some [0x02#8]
  | .typeAck => some [0x03#8]
  | .typeRdcmd => some [0x04#8]
  | .typeWrcmd => some [0x05#8]
  | .typeWrset => some [0x06#8]
  | .typeWrclr => some [0x07#8]
  | .typeDatagram => some [0x08#8]
  | .typeWrtgl => some [0x09#8]
  | .typeNone => some [0xFF#8]
  | .typeUnlisted t => some [t]
  | .telegramTx dest src ty reg payload crcHi crcLo =>
    some (wireFrame (txContent dest src ty reg payload ++ [crcHi, crcLo]))
  | .bodyRx addr ty reg payload crcHi crcLo => some (rxBody addr ty reg payload crcHi crcLo)
  | .crcStep _ _ => none
  | .crcCompute _ => none
  | .crcVerify _ => none
  | .escEnc _ => none
  | .escEncSeq _ => none
  | .escDecStep _ _ => none
  | .escDecSeq _ => none
  | .encFrame _ _ _ _ _ => none
  | .rxStart _ _ _ => none
  | .rxHuntDiscard _ => none
  | .rxHuntSot => none
  | .rxByteEot => none
  | .rxByteSoe => none
  | .rxByteData _ => none
  | .rxByteEscData _ => none
  | .rxCloseTooShort => none
  | .rxCloseChecksumInvalid => none
  | .rxCloseContentMismatch => none
  | .rxCloseReady => none
  | .rxFailTimeout => none
  | .rxFailConnLost => none
  | .rxRun => none
  | .request _ _ _ _ _ => none
  | .readRegister _ _ => none
  | .writeRegister _ _ _ => none
  | .reset => none

/-- The `n` bytes of a word of the table, the first on the wire first. The table writes a pair as one number whose HIGH
byte is the first on the wire (0x5E4D for `0x5E, 0x4D`), so the most significant byte comes first (log 2). -/
def tableBytes : Nat → Nat → List Byte
  | 0, _ => []
  | n + 1, w => BitVec.ofNat 8 (w / 256 ^ n) :: tableBytes n w

/-- The format of a word of the table of `n` bytes. One byte is a type code where the table fixes one with that value and a
wire byte otherwise; two bytes are an escape pair; more are a telegram (log 2). -/
def tableFormat (n w : Nat) : Format :=
  match n with
  | 1 => if listedTypes.contains (BitVec.ofNat 8 w) then .typeCode else .wireByte
  | 2 => .escapePair
  | _ => .telegram

/-- The instruction the decoder reads from a word of spec/opcode_table.json (log 2). -/
def decodeTableWord (nbits w : Nat) : Option Instr :=
  match decode (tableFormat (nbits / 8) w) (tableBytes (nbits / 8) w) with
  | .ok i => some i
  | .error _ => none

end Sys2Proof
end

