-- ==== Sys2Proof/Machine/State.lean ====
section
/-! DEFINITION. The state (spec 10_state.md R10 to R22; 20_memory.md R30 to R35), its value after reset (R21, R150), and the reasons
a step can stop. -/

namespace Sys2Proof.Machine

/-- RxState (R11): the two hunting states and the six terminal ones, in the order of the source's list. -/
inductive RxState
  | huntingStart
  | huntingEnd
  | ready
  | contentMismatch
  | checksumInvalid
  | tooShort
  | readTimeout
  | transportLost
  deriving DecidableEq, Repr

/-- Which operation of the host waits inside RX.RUN, and so what its end returns (R117, R153, R64). -/
inductive Caller
  | run
  | request
  | readRegister
  | writeRegister
  deriving DecidableEq, Repr

/-- The value an operation hands back to its caller (log 3). -/
inductive OpResult
  /-- No operation has returned a value yet. -/
  | none
  /-- CRC.STEP, CRC.COMPUTE: a word16 (R71, R72). -/
  | word (w : Word16)
  /-- CRC.VERIFY (R73) and isOpen (R34): a boolean. -/
  | bool (b : Bool)
  /-- ESC.ENC, ESC.ENCSEQ, ESC.DECSEQ, ENC.FRAME: a byte sequence (R80, R81, R83, R90). -/
  | bytes (bs : List Byte)
  /-- ESC.DEC.STEP: the new pending flag and the byte to append, if any (R82). -/
  | decStep (p : Bool) (out : Option Byte)
  /-- A message type code, and whether it is write-class (R58, R59). -/
  | typeCode (code : Byte) (isWriteClass : Bool)
  /-- RX.RUN: `rx_state`, and `payload`, meaningful when it is `Ready` (R117). -/
  | outcome (st : RxState) (payload : List Byte)
  /-- REQUEST on `Ready`: the payload (R153). -/
  | reply (payload : List Byte)
  /-- REQUEST otherwise: the error, which is the terminal state (R153). -/
  | failed (st : RxState)
  /-- READREGISTER: the payload on `Ready`, nothing otherwise (R64). -/
  | registerRead (value : Option (List Byte))
  /-- WRITEREGISTER: success or failure; the payload of the reply is discarded (R64). -/
  | registerWritten (ok : Bool)
  deriving DecidableEq, Repr

/-- The calls of the transport's surface that are the host's and have no row of their own (R32, R33, R34, R154). -/
inductive TransportCall
  /-- `ChanWrite(seq)` (R32). -/
  | chanWrite (seq : List Byte)
  /-- `flushInput()` (R33). -/
  | flushInput
  /-- `isOpen()` (R34). -/
  | isOpen
  /-- `close()` (R34). -/
  | close
  /-- `open(…, master_id, …)` (R154); the device, the baud rate and the timeout are the platform's (R39, R143). -/
  | openBus (masterId : Byte)
  deriving DecidableEq, Repr

/-- What the outside hands the machine next (log 1). -/
inductive Stimulus
  /-- The host invokes an operation. -/
  | op (i : Instr)
  /-- An encoded item of a format: its bytes are decoded when it is fetched. -/
  | encoded (f : Format) (bytes : List Byte)
  /-- The host calls the transport. -/
  | call (c : TransportCall)
  /-- The link delivers bytes into the transport's input buffer (R19 (a)). -/
  | arrive (bytes : List Byte)
  deriving DecidableEq, Repr

/-- The whole state: the block's seven elements (R10), what the table's operations touch of the transport and the host,
and the model's own fields (INVENTORY.md, State). -/
structure State where
  /-- `rx_state` (R11, R12). -/
  rxState : RxState
  /-- `esc_pending` (R13). -/
  escPending : Bool
  /-- `body` (R14). -/
  body : List Byte
  /-- `exp_addr` (R15). -/
  expAddr : Byte
  /-- `exp_type` (R15). -/
  expType : Byte
  /-- `exp_reg` (R15). -/
  expReg : Byte
  /-- `payload` (R16). -/
  payload : List Byte
  /-- The transport's input buffer: bytes that arrived and were not yet read, oldest first (R19 (a), R33). -/
  buffered : List Byte
  /-- What the transport answers to the reads after the buffered bytes are used up (R31, R35; log 10). -/
  upcoming : List ReadOutcome
  /-- The sequences handed to the transport, one for each ChanWrite, oldest first (R32, R38). -/
  sent : List (List Byte)
  /-- What `isOpen()` answers (R34). -/
  chanOpen : Bool
  /-- The master id given at `open` (R154). -/
  masterId : Byte
  /-- The operation that waits inside RX.RUN, if one does (R117; log 14). -/
  loop : Option Caller
  /-- What the outside does next, in order (log 1). -/
  pending : List Stimulus
  /-- The value the last returning operation handed back (log 3). -/
  result : OpResult
  /-- The index of the next free value (log 22). -/
  draws : Nat
  deriving DecidableEq, Repr

/-- The state after a hardware reset (R21, R150). The three expected bytes are unspecified by the spec: zero is the
model's choice (log 9), and so are the environment's values (log 10, log 11). -/
def State.reset : State where
  rxState := .huntingStart
  escPending := false
  body := []
  expAddr := 0x00#8
  expType := 0x00#8
  expReg := 0x00#8
  payload := []
  buffered := []
  upcoming := []
  sent := []
  chanOpen := false
  masterId := 0x00#8
  loop := none
  pending := []
  result := .none
  draws := 0

/-- Why the machine stops. -/
inductive Fault
  /-- A byte or a read failure is offered to a receiver in a terminal state: no step (R103, U9, D10). Raised by every
  instruction that is the arrival of a byte, a pair, a frame or a read failure. Safe: the model stops where the spec
  gives no transition (log 12). -/
  | noStep
  deriving DecidableEq, Repr

/-- Why the machine has no meaning for what it was handed. -/
inductive Refusal
  /-- The instruction has no meaning in this model. Raised by exec's arms alone; no arm is left that raises it. Safe. -/
  | notModelled (mnemonic : String)
  /-- The bytes of an encoded item are not an instruction of its format. Raised by the fetch. Safe (log 18). -/
  | undecodable (why : DecodeError)
  /-- The operands are outside what the instruction's row admits. Raised by the fetch. Safe (log 18). -/
  | illFormed
  deriving DecidableEq, Repr

end Sys2Proof.Machine
end

