-- ==== Sys2Proof/Machine/Ops.lean ====
section
/-! DEFINITION. The operations every meaning is made of: on the receiver (spec 43_receiver.md), on the channel (20_memory.md R31 to R34),
on the receive loop (R117), ending an attempt in a terminal state (60_exceptions.md R139) and the way back (R140), and the
hardware reset (R150). -/

namespace Sys2Proof.Machine

/-- What a meaning answers. -/
abbrev Result := Host.Outcome State Fault Refusal

/-! ### States of the receiver -/

/-- The two hunting states; the other six are terminal (R11). -/
def RxState.hunting : RxState → Bool
  | .huntingStart => true
  | .huntingEnd => true
  | .ready => false
  | .contentMismatch => false
  | .checksumInvalid => false
  | .tooShort => false
  | .readTimeout => false
  | .transportLost => false

/-- The ordinals of D15, three bits wide; nothing depends on them (R12, R130). -/
def RxState.code : RxState → BitVec 3
  | .huntingStart => 0#3
  | .huntingEnd => 1#3
  | .ready => 2#3
  | .contentMismatch => 3#3
  | .checksumInvalid => 4#3
  | .tooShort => 5#3
  | .readTimeout => 6#3
  | .transportLost => 7#3

/-! ### Ending an attempt, and the way back (the block's only form of exception) -/

/-- Ending an attempt in a terminal state: `rx_state` is written and nothing else (R136, R139). -/
def enterTerminal (st : RxState) (s : State) : State := { s with rxState := st }

/-- RX.START(a, t, r) (R100): enabled in every state, and the only way out of a terminal one (R140). -/
def rxStart (a t r : Byte) (s : State) : State :=
  { s with
    rxState := .huntingStart
    escPending := false
    body := []
    payload := []
    expAddr := a
    expType := t
    expReg := r }

/-! ### One byte -/

/-- R104: a byte read in `HuntingStart` that is not SOT is discarded. -/
def rxDiscard (s : State) : State := s

/-- R105: a frame opens. -/
def rxOpenFrame (s : State) : State := { s with body := [], escPending := false, rxState := .huntingEnd }

/-- R108, R109, R110: a byte that does not close the frame goes through the de-escaping step of R82. -/
def rxDeescape (b : Byte) (s : State) : State :=
  let r := escDecStep s.escPending b
  { s with escPending := r.1, body := s.body ++ r.2.toList }

/-- The three header bytes are the expected ones (R113), at the positions of the layout `c`. -/
def headerMatches (c : Config) (s : State) : Bool :=
  s.body[c.rxPosAddr]? == some s.expAddr && s.body[c.rxPosType]? == some s.expType
    && s.body[c.rxPosReg]? == some s.expReg

/-- The outcome of closing the frame (R107): length, then checksum, then content (R138). -/
def closeOutcome (c : Config) (s : State) : RxState :=
  if s.body.length < c.rxMinBody then .tooShort
  else if !crcVerify s.body then .checksumInvalid
  else if !headerMatches c s then .contentMismatch
  else .ready

/-- The payload of a frame that passed every check (R114). -/
def rxPayload (c : Config) (s : State) : List Byte := slice s.body c.rxPayloadStart (s.body.length - c.crcLen)

/-- RX.CLOSE (R107, R111 to R114), for the layout `c`: the payload is written on the way to `Ready` only. -/
def rxCloseWith (c : Config) (s : State) : State :=
  match closeOutcome c s with
  | .ready => enterTerminal .ready { s with payload := rxPayload c s }
  | st => enterTerminal st s

/-- RX.CLOSE (R107). -/
def rxClose (s : State) : State := rxCloseWith layout s

/-- RX.BYTE(b) (R104 to R110): the rule is picked from `rx_state`, `esc_pending` and the class of the raw byte (R102, R106);
a terminal state has no step (R103). -/
def rxByte (b : Byte) (s : State) : Result :=
  match s.rxState with
  | .huntingStart => .next (if b = SOT then rxOpenFrame s else rxDiscard s)
  | .huntingEnd => .next (if b = EOT then rxClose s else rxDeescape b s)
  | .ready => .fault .noStep
  | .contentMismatch => .fault .noStep
  | .checksumInvalid => .fault .noStep
  | .tooShort => .fault .noStep
  | .readTimeout => .fault .noStep
  | .transportLost => .fault .noStep

/-- Several bytes in order, one RX.BYTE each (R101). -/
def rxBytes : List Byte → State → Result
  | [], s => .next s
  | b :: bs, s =>
    match rxByte b s with
    | .next t => rxBytes bs t
    | .fault f => .fault f
    | .refused r => .refused r

/-- RX.FAIL (R115, R116): the first failed read ends the attempt in the terminal state `st`; a terminal state has no step
(R103). -/
def rxFail (st : RxState) (s : State) : Result :=
  if s.rxState.hunting then .next (enterTerminal st s) else .fault .noStep

/-- RX.STEP (R101): one read outcome, handled by RX.BYTE or by RX.FAIL. -/
def rxStep (o : ReadOutcome) (s : State) : Result :=
  match o with
  | .byte b => rxByte b s
  | .timeout => rxFail .readTimeout s
  | .connLost => rxFail .transportLost s

/-! ### The channel -/

/-- ChanRead() (R31): the oldest buffered byte, then the outcomes the state lists, then a free one (R35; log 10). -/
def chanRead (s : State) : ReadOutcome × State :=
  match s.buffered with
  | b :: bs => (.byte b, { s with buffered := bs })
  | [] =>
    match s.upcoming with
    | o :: os => (o, { s with upcoming := os })
    | [] => (Config.freeRead s.draws, { s with draws := s.draws + 1 })

/-- ChanWrite(seq) (R32): the whole sequence, in order, as one write (R38). -/
def chanWrite (seq : List Byte) (s : State) : State := { s with sent := s.sent ++ [seq] }

/-- flushInput() (R33): the buffered unread bytes are discarded. -/
def flushInput (s : State) : State := { s with buffered := [] }

/-- Bytes arrive in the transport's input buffer (R19 (a)). -/
def arrive (bs : List Byte) (s : State) : State := { s with buffered := s.buffered ++ bs }

/-- An operation returns its value to its caller (log 3). -/
def returns (r : OpResult) (s : State) : State := { s with result := r }

/-- The host's calls on the transport that have no row of their own (R32 to R34, R154). DESIGN CHOICE (log 27): close and a later
open leave the unread bytes and the outcomes to come as they were, which the spec does not say. -/
def transportCall (c : TransportCall) (s : State) : State :=
  match c with
  | .chanWrite seq => chanWrite seq s
  | .flushInput => flushInput s
  | .isOpen => returns (.bool s.chanOpen) s
  | .close => { s with chanOpen := false }
  | .openBus m => { s with chanOpen := true, masterId := m }

/-! ### The receive loop -/

/-- What the loop's end returns (R117; R153 step 6; R64). -/
def callerResult (c : Caller) (s : State) : OpResult :=
  match c with
  | .run => .outcome s.rxState s.payload
  | .request => if s.rxState = .ready then .reply s.payload else .failed s.rxState
  | .readRegister => .registerRead (if s.rxState = .ready then some s.payload else none)
  | .writeRegister => .registerWritten (decide (s.rxState = .ready))

/-- The loop's test (R117): it goes on while the receiver hunts, and returns to its caller otherwise. -/
def settle (s : State) : State :=
  if s.rxState.hunting then s
  else
    match s.loop with
    | some c => { s with loop := none, result := callerResult c s }
    | none => s

/-- RX.RUN begins for a caller (R117): one read outcome is consumed in each step after this one (R101). -/
def beginLoop (c : Caller) (s : State) : State := settle { s with loop := some c }

/-- One transaction (R153): discard stale input, encode and transmit, start the attempt, run the loop. -/
def transaction (c : Caller) (dest reg typeOut : Byte) (payloadOut : List Byte) (typeIn : Byte) (s : State) : State :=
  beginLoop c
    (rxStart dest typeIn reg
      (chanWrite (encFrame dest s.masterId typeOut reg payloadOut) (flushInput s)))

/-! ### Reset -/

/-- The hardware reset (R150 (a), R21): the receiver as RX.START leaves it, with the three expected bytes unspecified (free
values); the block is idle, and the transport and the host are not touched. -/
def hardwareReset (s : State) : State :=
  { s with
    rxState := .huntingStart
    escPending := false
    body := []
    payload := []
    expAddr := Config.freeByte s.draws
    expType := Config.freeByte (s.draws + 1)
    expReg := Config.freeByte (s.draws + 2)
    loop := none
    draws := s.draws + 3 }

end Sys2Proof.Machine
end

