-- ==== Sys2Proof/Machine/Checksum.lean ====
section
/-! DEFINITION. Meanings of the checksum engine's operations (40_crc.md): pure functions whose result goes to the caller. -/

namespace Sys2Proof.Machine

/-- CRC.STEP(c, b) (R71). -/
def execCrcStep (c : Word16) (b : Byte) (s : State) : Result := .next (returns (.word (crcStep c b)) s)

/-- CRC.COMPUTE(bytes) (R72). -/
def execCrcCompute (bytes : List Byte) (s : State) : Result := .next (returns (.word (crcCompute bytes)) s)

/-- CRC.VERIFY(bytes) (R73). -/
def execCrcVerify (bytes : List Byte) (s : State) : Result := .next (returns (.bool (crcVerify bytes)) s)

end Sys2Proof.Machine
end

