-- ==== Sys2Proof/Machine/Codec.lean ====
section
/-! DEFINITION. Meanings of the escape codec's operations (41_escape_codec.md) and of the frame encoder's (42_frame_encoder.md): pure functions
whose result goes to the caller. -/

namespace Sys2Proof.Machine

/-- ESC.ENC(v) (R80). -/
def execEscEnc (v : Byte) (s : State) : Result := .next (returns (.bytes (escEnc v)) s)

/-- ESC.ENCSEQ(s) (R81). -/
def execEscEncSeq (bytes : List Byte) (s : State) : Result := .next (returns (.bytes (escEncSeq bytes)) s)

/-- ESC.DEC.STEP(p, b) (R82), for every byte `b` (R130; log 26). -/
def execEscDecStep (p : Bool) (b : Byte) (s : State) : Result :=
  .next (returns (.decStep (escDecStep p b).1 (escDecStep p b).2) s)

/-- ESC.DECSEQ(s) (R83), for every sequence (R130; log 26). -/
def execEscDecSeq (bytes : List Byte) (s : State) : Result := .next (returns (.bytes (escDecSeq bytes)) s)

/-- ENC.FRAME(dest, src, type, reg, payload) (R90, R91). -/
def execEncFrame (dest src ty reg : Byte) (payload : List Byte) (s : State) : Result :=
  .next (returns (.bytes (encFrame dest src ty reg payload)) s)

end Sys2Proof.Machine
end

