-- ==== Sys2Proof/Machine/EscapePairs.lean ====
section
/-! DEFINITION. Meanings of the escape-pair rows: the arrival of the two bytes 0x5E, c, one RX.BYTE each (R56, R61, R101; log 8). -/

namespace Sys2Proof.Machine

/-- ESC.SOT: 0x5E 0x4D, standing for 0x0D (R56). -/
def execEscSot (s : State) : Result := rxBytes [SOE, 0x4D#8] s

/-- ESC.EOT: 0x5E 0x4A, standing for 0x0A (R56). -/
def execEscEot (s : State) : Result := rxBytes [SOE, 0x4A#8] s

/-- ESC.SOE: 0x5E 0x9E, standing for 0x5E (R56). -/
def execEscSoe (s : State) : Result := rxBytes [SOE, 0x9E#8] s

/-- ESC.ANY b: 0x5E b, standing for `(b - 0x40) mod 256` (R61, R110, D3). -/
def execEscAny (b : Byte) (s : State) : Result := rxBytes [SOE, b] s

end Sys2Proof.Machine
end

