-- ==== Sys2Proof/Machine/Receiver.lean ====
section
/-! DEFINITION. Meanings of the receiver's operations (43_receiver.md). A row that names one case of RX.BYTE or of RX.CLOSE is RX.BYTE with
the row's byte: the block picks the rule from its state, and in the state the row names that is the row's rule (log 4). -/

namespace Sys2Proof.Machine

/-- RX.START(a, t, r) (R100). -/
def execRxStart (addr ty reg : Byte) (s : State) : Result := .next (rxStart addr ty reg s)

/-- RX.BYTE.HUNT_DISCARD: RX.BYTE(b), in `HuntingStart` rule R104. -/
def execRxHuntDiscard (b : Byte) (s : State) : Result := rxByte b s

/-- RX.BYTE.HUNT_SOT: RX.BYTE(0x0D), in `HuntingStart` rule R105. -/
def execRxHuntSot (s : State) : Result := rxByte SOT s

/-- RX.BYTE.EOT: RX.BYTE(0x0A), in `HuntingEnd` rule R107. -/
def execRxByteEot (s : State) : Result := rxByte EOT s

/-- RX.BYTE.SOE: RX.BYTE(0x5E), in `HuntingEnd` with no escape pending rule R108. -/
def execRxByteSoe (s : State) : Result := rxByte SOE s

/-- RX.BYTE.DATA: RX.BYTE(b), in `HuntingEnd` with no escape pending rule R109. -/
def execRxByteData (b : Byte) (s : State) : Result := rxByte b s

/-- RX.BYTE.ESCDATA: RX.BYTE(b), in `HuntingEnd` with an escape pending rule R110. -/
def execRxByteEscData (b : Byte) (s : State) : Result := rxByte b s

/-- RX.CLOSE.TOOSHORT: the closing EOT, with `len(body) < 5` rule R111. -/
def execRxCloseTooShort (s : State) : Result := rxByte EOT s

/-- RX.CLOSE.CHECKSUMINVALID: the closing EOT, with a residual that is not zero rule R112. -/
def execRxCloseChecksumInvalid (s : State) : Result := rxByte EOT s

/-- RX.CLOSE.CONTENTMISMATCH: the closing EOT, with a compared byte that differs rule R113. -/
def execRxCloseContentMismatch (s : State) : Result := rxByte EOT s

/-- RX.CLOSE.READY: the closing EOT, with every check passed rule R114. -/
def execRxCloseReady (s : State) : Result := rxByte EOT s

/-- RX.FAIL(Timeout) (R115). -/
def execRxFailTimeout (s : State) : Result := rxFail .readTimeout s

/-- RX.FAIL(ConnLost) (R116). -/
def execRxFailConnLost (s : State) : Result := rxFail .transportLost s

/-- RX.RUN (R117): the loop begins; every later step consumes one read outcome until a terminal state is reached. -/
def execRxRun (s : State) : Result := .next (beginLoop .run s)

end Sys2Proof.Machine
end

