-- ==== Sys2Proof/Machine/Session.lean ====
section
/-! DEFINITION. Meanings of the host's operations (70_reset_and_hazards.md R153, 30_encoding.md R64) and of the hardware reset (R150). -/

namespace Sys2Proof.Machine

/-- REQUEST (R153), with the master id given at `open` (R154). -/
def execRequest (dest reg typeOut : Byte) (payloadOut : List Byte) (typeIn : Byte) (s : State) : Result :=
  .next (transaction .request dest reg typeOut payloadOut typeIn s)

/-- READREGISTER (R64): RDCMD 0x04 with an empty payload, a DATAGRAM 0x08 expected. -/
def execReadRegister (dest reg : Byte) (s : State) : Result :=
  .next (transaction .readRegister dest reg 0x04#8 [] 0x08#8 s)

/-- WRITEREGISTER (R64): WRCMD 0x05 with the caller's payload, an ACK 0x03 expected. -/
def execWriteRegister (dest reg : Byte) (payload : List Byte) (s : State) : Result :=
  .next (transaction .writeRegister dest reg 0x05#8 payload 0x03#8 s)

/-- RESET (R150 (a)). -/
def execReset (s : State) : Result := .next (hardwareReset s)

end Sys2Proof.Machine
end

