-- ==== Sys2Proof/Machine/Telegrams.lean ====
section
/-! DEFINITION. Meanings of the telegram rows: a telegram handed to the transport (R52, R32), a frame with a given body arriving (R54). -/

namespace Sys2Proof.Machine

/-- TELEGRAM.TX: the wire telegram of these fields is handed to the transport as one write (R52, R32, R38; log 6). -/
def execTelegramTx (dest src ty reg : Byte) (payload : List Byte) (crcHi crcLo : Byte) (s : State) : Result :=
  .next (chanWrite (wireFrame (txContent dest src ty reg payload ++ [crcHi, crcLo])) s)

/-- BODY.RX: a frame whose de-escaped body has these fields arrives, `SOT · [escaped body] · EOT`, one RX.BYTE for each byte
(R54, R101; log 7). -/
def execBodyRx (addr ty reg : Byte) (payload : List Byte) (crcHi crcLo : Byte) (s : State) : Result :=
  rxBytes (wireFrame (rxBody addr ty reg payload crcHi crcLo)) s

end Sys2Proof.Machine
end

