-- ==== Sys2Proof/Machine/TypeCodes.lean ====
section
/-! DEFINITION. Meanings of the type-code rows (R58 to R60). -/

namespace Sys2Proof.Machine

/-- A message type code is presented: what the block makes of it is whether an encoded telegram of that type carries its
payload (R58 (a), R59). The answer goes to the caller; no element of the block changes (log 5). -/
def classifyType (t : Byte) (s : State) : Result := .next (returns (.typeCode t (writeClass t)) s)

/-- TYPE.NACK, code 0x00 (R58). -/
def execTypeNack (s : State) : Result := classifyType 0x00#8 s

/-- TYPE.CRC, code 0x01 (R58). -/
def execTypeCrc (s : State) : Result := classifyType 0x01#8 s

/-- TYPE.BUSY, code 0x02 (R58). -/
def execTypeBusy (s : State) : Result := classifyType 0x02#8 s

/-- TYPE.ACK, code 0x03 (R58). -/
def execTypeAck (s : State) : Result := classifyType 0x03#8 s

/-- TYPE.RDCMD, code 0x04 (R58). -/
def execTypeRdcmd (s : State) : Result := classifyType 0x04#8 s

/-- TYPE.WRCMD, code 0x05 (R58). -/
def execTypeWrcmd (s : State) : Result := classifyType 0x05#8 s

/-- TYPE.WRSET, code 0x06 (R58). -/
def execTypeWrset (s : State) : Result := classifyType 0x06#8 s

/-- TYPE.WRCLR, code 0x07 (R58). -/
def execTypeWrclr (s : State) : Result := classifyType 0x07#8 s

/-- TYPE.DATAGRAM, code 0x08 (R58). -/
def execTypeDatagram (s : State) : Result := classifyType 0x08#8 s

/-- TYPE.WRTGL, code 0x09 (R58). -/
def execTypeWrtgl (s : State) : Result := classifyType 0x09#8 s

/-- TYPE.NONE, code 0xFF (R58). -/
def execTypeNone (s : State) : Result := classifyType 0xFF#8 s

/-- TYPE.UNLISTED t: accepted, and not write-class (R60, D6). -/
def execTypeUnlisted (t : Byte) (s : State) : Result := classifyType t s

end Sys2Proof.Machine
end

