-- ==== Sys2Proof/Machine/WireBytes.lean ====
section
/-! DEFINITION. Meanings of the wire-byte rows: the arrival of one byte of a class of R51, handled by RX.BYTE (R101, R102). -/

namespace Sys2Proof.Machine

/-- SOT (R105; data in `HuntingEnd`: R109, R110, D7). -/
def execSot (s : State) : Result := rxByte SOT s

/-- EOT (R107; discarded in `HuntingStart`: R104). -/
def execEot (s : State) : Result := rxByte EOT s

/-- SOE (R108; data after SOE: R110, D9; discarded in `HuntingStart`: R104). -/
def execSoe (s : State) : Result := rxByte SOE s

/-- DATA v (R109, R110; discarded in `HuntingStart`: R104). -/
def execData (v : Byte) (s : State) : Result := rxByte v s

end Sys2Proof.Machine
end

