-- ==== Sys2Proof/Machine/Dispatch.lean ====
section
/-! DEFINITION. exec: one arm for each constructor of Instr, one direct call of its meaning. -/

namespace Sys2Proof.Machine

def exec (i : Instr) (s : State) : Host.Outcome State Fault Refusal :=
  match i with
  | .sot => Sys2Proof.Machine.execSot s
  | .eot => Sys2Proof.Machine.execEot s
  | .soe => Sys2Proof.Machine.execSoe s
  | .data v => Sys2Proof.Machine.execData v s
  | .escSot => Sys2Proof.Machine.execEscSot s
  | .escEot => Sys2Proof.Machine.execEscEot s
  | .escSoe => Sys2Proof.Machine.execEscSoe s
  | .escAny b => Sys2Proof.Machine.execEscAny b s
  | .typeNack => Sys2Proof.Machine.execTypeNack s
  | .typeCrc => Sys2Proof.Machine.execTypeCrc s
  | .typeBusy => Sys2Proof.Machine.execTypeBusy s
  | .typeAck => Sys2Proof.Machine.execTypeAck s
  | .typeRdcmd => Sys2Proof.Machine.execTypeRdcmd s
  | .typeWrcmd => Sys2Proof.Machine.execTypeWrcmd s
  | .typeWrset => Sys2Proof.Machine.execTypeWrset s
  | .typeWrclr => Sys2Proof.Machine.execTypeWrclr s
  | .typeDatagram => Sys2Proof.Machine.execTypeDatagram s
  | .typeWrtgl => Sys2Proof.Machine.execTypeWrtgl s
  | .typeNone => Sys2Proof.Machine.execTypeNone s
  | .typeUnlisted t => Sys2Proof.Machine.execTypeUnlisted t s
  | .telegramTx dest src ty reg payload crcHi crcLo => Sys2Proof.Machine.execTelegramTx dest src ty reg payload crcHi crcLo s
  | .bodyRx addr ty reg payload crcHi crcLo => Sys2Proof.Machine.execBodyRx addr ty reg payload crcHi crcLo s
  | .crcStep c b => Sys2Proof.Machine.execCrcStep c b s
  | .crcCompute bytes => Sys2Proof.Machine.execCrcCompute bytes s
  | .crcVerify bytes => Sys2Proof.Machine.execCrcVerify bytes s
  | .escEnc v => Sys2Proof.Machine.execEscEnc v s
  | .escEncSeq bytes => Sys2Proof.Machine.execEscEncSeq bytes s
  | .escDecStep p b => Sys2Proof.Machine.execEscDecStep p b s
  | .escDecSeq bytes => Sys2Proof.Machine.execEscDecSeq bytes s
  | .encFrame dest src ty reg payload => Sys2Proof.Machine.execEncFrame dest src ty reg payload s
  | .rxStart addr ty reg => Sys2Proof.Machine.execRxStart addr ty reg s
  | .rxHuntDiscard b => Sys2Proof.Machine.execRxHuntDiscard b s
  | .rxHuntSot => Sys2Proof.Machine.execRxHuntSot s
  | .rxByteEot => Sys2Proof.Machine.execRxByteEot s
  | .rxByteSoe => Sys2Proof.Machine.execRxByteSoe s
  | .rxByteData b => Sys2Proof.Machine.execRxByteData b s
  | .rxByteEscData b => Sys2Proof.Machine.execRxByteEscData b s
  | .rxCloseTooShort => Sys2Proof.Machine.execRxCloseTooShort s
  | .rxCloseChecksumInvalid => Sys2Proof.Machine.execRxCloseChecksumInvalid s
  | .rxCloseContentMismatch => Sys2Proof.Machine.execRxCloseContentMismatch s
  | .rxCloseReady => Sys2Proof.Machine.execRxCloseReady s
  | .rxFailTimeout => Sys2Proof.Machine.execRxFailTimeout s
  | .rxFailConnLost => Sys2Proof.Machine.execRxFailConnLost s
  | .rxRun => Sys2Proof.Machine.execRxRun s
  | .request dest reg typeOut payloadOut typeIn => Sys2Proof.Machine.execRequest dest reg typeOut payloadOut typeIn s
  | .readRegister dest reg => Sys2Proof.Machine.execReadRegister dest reg s
  | .writeRegister dest reg payload => Sys2Proof.Machine.execWriteRegister dest reg payload s
  | .reset => Sys2Proof.Machine.execReset s

end Sys2Proof.Machine
end

