-- ==== Sys2Proof/Machine/Fetch.lean ====
section
/-! DEFINITION. Fetching: what the next entry of `pending` asks for (log 1), and where a word of the table is stored so that it
is the next one fetched. -/

namespace Sys2Proof.Machine

/-- The decoded instruction, checked for operands its row does not admit (log 18). -/
def fetched : Except DecodeError Instr → Except Refusal Instr
  | .ok i => if wellFormed i then .ok i else .error .illFormed
  | .error e => .error (.undecodable e)

/-- An encoded item's instruction: its bytes, decoded in its format. -/
def fetchBytes (f : Format) (bs : List Byte) : Except Refusal Instr := fetched (decode f bs)

/-- A word of the table as an encoded item in front of everything pending, with no loop running before it (log 1, log 2). -/
def placeWord (s : State) (nbits w : Nat) : State :=
  { s with
    loop := none
    pending := .encoded (tableFormat (nbits / 8) w) (tableBytes (nbits / 8) w) :: s.pending }

end Sys2Proof.Machine
end

