-- ==== Sys2Proof/Machine/Turn.lean ====
section
/-! DEFINITION. What a step is made of: running what was fetched, one turn of the receive loop (spec 43_receiver.md R101, R117), one entry
of `pending` (log 1). -/

namespace Sys2Proof.Machine

/-- Runs what was fetched. -/
def issue (f : Except Refusal Instr) (s : State) : Result :=
  match f with
  | .ok i => exec i s
  | .error r => .refused r

/-- One turn of the receive loop's body: a read, then RX.BYTE or RX.FAIL, then the loop's test (R117). -/
def loopTurn (s : State) : Result :=
  match exec (decodeOutcome (chanRead s).1) (chanRead s).2 with
  | .next t => .next (settle t)
  | .fault f => .fault f
  | .refused r => .refused r

/-- The receive loop, waiting for its caller: a turn while the receiver hunts, its end otherwise (R117). -/
def loopStep (s : State) : Result := if s.rxState.hunting then loopTurn s else .next (settle s)

/-- One entry of `pending` runs; the state given no longer lists it. -/
def takeStimulus (x : Stimulus) (s : State) : Result :=
  match x with
  | .op i => issue (fetched (.ok i)) s
  | .encoded f bs => issue (fetchBytes f bs) s
  | .call c => .next (transportCall c s)
  | .arrive bs => .next (arrive bs s)

/-- Between receive loops: the next entry of `pending`; with nothing pending the block is idle (R150; log 13). -/
def hostStep (s : State) : Result :=
  match s.pending with
  | x :: rest => takeStimulus x { s with pending := rest }
  | [] => .next s

end Sys2Proof.Machine
end

