-- ==== Sys2Proof/Machine/Step.lean ====
section
/-! DEFINITION. One step of the machine. While a receive loop runs, a step consumes one read outcome (spec 43_receiver.md R101, R117);
otherwise it takes the next entry of `pending` (log 1). -/

namespace Sys2Proof.Machine

/-- The step function. -/
def step (s : State) : Host.Outcome State Fault Refusal :=
  match s.loop with
  | some _ => loopStep s
  | none => hostStep s

/-- `s` with the table's word where `step` fetches its next instruction (log 1, log 2). -/
def State.withFetchWord (s : State) (nbits w : Nat) : State := placeWord s nbits w

end Sys2Proof.Machine
end

