-- ==== Sys2Proof/Safety.lean ====
section
/-! DEFINITION. The terms the statements use: the invariant of the receiver (spec 10_state.md R22), which instructions are the arrival
of one byte, which start an attempt, and a receive attempt over a list of read outcomes (43_receiver.md R119). -/

namespace Sys2Proof.Machine

/-- A frame that passed every check stands in `body`, and its payload in `payload` (R22 (c)). -/
structure Accepted (s : State) : Prop where
  long : 5 ≤ s.body.length
  residual : crcCompute s.body = 0x0000#16
  addr : s.body[0]? = some s.expAddr
  type : s.body[1]? = some s.expType
  reg : s.body[2]? = some s.expReg
  payload : s.payload = (s.body.take (s.body.length - 2)).drop 3

/-- The receiver's invariant (R22 (a) to (d), and what R112 and R113 leave), with the loop's (R117): an operation waits inside
RX.RUN only while the receiver hunts. -/
structure Inv (s : State) : Prop where
  start : s.rxState = .huntingStart → s.body = [] ∧ s.escPending = false
  payload : s.payload ≠ [] → s.rxState = .ready
  ready : s.rxState = .ready → Accepted s
  tooShort : s.rxState = .tooShort → s.body.length < 5
  checksum : s.rxState = .checksumInvalid → 5 ≤ s.body.length ∧ crcCompute s.body ≠ 0x0000#16
  mismatch : s.rxState = .contentMismatch →
    5 ≤ s.body.length ∧ crcCompute s.body = 0x0000#16 ∧
      ¬(s.body[0]? = some s.expAddr ∧ s.body[1]? = some s.expType ∧ s.body[2]? = some s.expReg)
  loop : s.loop ≠ none → s.rxState = .huntingStart ∨ s.rxState = .huntingEnd

/-- The byte whose arrival an instruction is: the four wire-byte rows, the six RX.BYTE rows, and the four RX.CLOSE rows,
which are the arrival of the closing EOT (log 4). -/
def arrivalByte : Instr → Option Byte
  | .sot => some 0x0D#8
  | .eot => some 0x0A#8
  | .soe => some 0x5E#8
  | .data v => some v
  | .escSot => none
  | .escEot => none
  | .escSoe => none
  | .escAny _ => none
  | .typeNack => none
  | .typeCrc => none
  | .typeBusy => none
  | .typeAck => none
  | .typeRdcmd => none
  | .typeWrcmd => none
  | .typeWrset => none
  | .typeWrclr => none
  | .typeDatagram => none
  | .typeWrtgl => none
  | .typeNone => none
  | .typeUnlisted _ => none
  | .telegramTx _ _ _ _ _ _ _ => none
  | .bodyRx _ _ _ _ _ _ => none
  | .crcStep _ _ => none
  | .crcCompute _ => none
  | .crcVerify _ => none
  | .escEnc _ => none
  | .escEncSeq _ => none
  | .escDecStep _ _ => none
  | .escDecSeq _ => none
  | .encFrame _ _ _ _ _ => none
  | .rxStart _ _ _ => none
  | .rxHuntDiscard b => some b
  | .rxHuntSot => some 0x0D#8
  | .rxByteEot => some 0x0A#8
  | .rxByteSoe => some 0x5E#8
  | .rxByteData b => some b
  | .rxByteEscData b => some b
  | .rxCloseTooShort => some 0x0A#8
  | .rxCloseChecksumInvalid => some 0x0A#8
  | .rxCloseContentMismatch => some 0x0A#8
  | .rxCloseReady => some 0x0A#8
  | .rxFailTimeout => none
  | .rxFailConnLost => none
  | .rxRun => none
  | .request _ _ _ _ _ => none
  | .readRegister _ _ => none
  | .writeRegister _ _ _ => none
  | .reset => none

/-- The operations that begin an attempt, and the hardware reset: RX.START and those that call it (R100, R153, R64, R150). -/
def startsAttempt : Instr → Bool
  | .sot => false
  | .eot => false
  | .soe => false
  | .data _ => false
  | .escSot => false
  | .escEot => false
  | .escSoe => false
  | .escAny _ => false
  | .typeNack => false
  | .typeCrc => false
  | .typeBusy => false
  | .typeAck => false
  | .typeRdcmd => false
  | .typeWrcmd => false
  | .typeWrset => false
  | .typeWrclr => false
  | .typeDatagram => false
  | .typeWrtgl => false
  | .typeNone => false
  | .typeUnlisted _ => false
  | .telegramTx _ _ _ _ _ _ _ => false
  | .bodyRx _ _ _ _ _ _ => false
  | .crcStep _ _ => false
  | .crcCompute _ => false
  | .crcVerify _ => false
  | .escEnc _ => false
  | .escEncSeq _ => false
  | .escDecStep _ _ => false
  | .escDecSeq _ => false
  | .encFrame _ _ _ _ _ => false
  | .rxStart _ _ _ => true
  | .rxHuntDiscard _ => false
  | .rxHuntSot => false
  | .rxByteEot => false
  | .rxByteSoe => false
  | .rxByteData _ => false
  | .rxByteEscData _ => false
  | .rxCloseTooShort => false
  | .rxCloseChecksumInvalid => false
  | .rxCloseContentMismatch => false
  | .rxCloseReady => false
  | .rxFailTimeout => false
  | .rxFailConnLost => false
  | .rxRun => false
  | .request _ _ _ _ _ => true
  | .readRegister _ _ => true
  | .writeRegister _ _ _ => true
  | .reset => true

/-- The operations that read nothing of the block and change nothing of it: the pure functions, the type codes and the
handing over of a telegram. -/
def leavesReceiver : Instr → Bool
  | .sot => false
  | .eot => false
  | .soe => false
  | .data _ => false
  | .escSot => false
  | .escEot => false
  | .escSoe => false
  | .escAny _ => false
  | .typeNack => true
  | .typeCrc => true
  | .typeBusy => true
  | .typeAck => true
  | .typeRdcmd => true
  | .typeWrcmd => true
  | .typeWrset => true
  | .typeWrclr => true
  | .typeDatagram => true
  | .typeWrtgl => true
  | .typeNone => true
  | .typeUnlisted _ => true
  | .telegramTx _ _ _ _ _ _ _ => true
  | .bodyRx _ _ _ _ _ _ => false
  | .crcStep _ _ => true
  | .crcCompute _ => true
  | .crcVerify _ => true
  | .escEnc _ => true
  | .escEncSeq _ => true
  | .escDecStep _ _ => true
  | .escDecSeq _ => true
  | .encFrame _ _ _ _ _ => true
  | .rxStart _ _ _ => false
  | .rxHuntDiscard _ => false
  | .rxHuntSot => false
  | .rxByteEot => false
  | .rxByteSoe => false
  | .rxByteData _ => false
  | .rxByteEscData _ => false
  | .rxCloseTooShort => false
  | .rxCloseChecksumInvalid => false
  | .rxCloseContentMismatch => false
  | .rxCloseReady => false
  | .rxFailTimeout => false
  | .rxFailConnLost => false
  | .rxRun => false
  | .request _ _ _ _ _ => false
  | .readRegister _ _ => false
  | .writeRegister _ _ _ => false
  | .reset => false

/-- A receive attempt over a list of read outcomes (R117, R119): one is consumed for each step while the receiver hunts.
The state reached, and the outcomes left unread. -/
def attempt : List ReadOutcome → State → State × List ReadOutcome
  | [], s => (s, [])
  | o :: os, s =>
    if s.rxState.hunting then
      match rxStep o s with
      | .next t => attempt os t
      | .fault _ => (s, o :: os)
      | .refused _ => (s, o :: os)
    else (s, o :: os)

/-- Bytes read from the channel, as read outcomes. -/
def bytesRead (bs : List Byte) : List ReadOutcome := bs.map .byte

end Sys2Proof.Machine
end

