-- ==== Sys2Proof/Certificates/Slice0/Obligations.lean ====
section
/-! DEFINITION. The statements for the provers, in the order of OBLIGATIONS.json. -/

open Sys2Proof Sys2Proof.Machine

/-! ### Encoding and fetching -/

/-- 30_encoding.md R51 (first two columns), R102: the class of a byte on the wire is decided by the whole byte, read from the channel or
given as an item. -/
def Obligations.WireByteDecodesByItsClass : Prop :=
  ∀ b : Byte,
    (b = 0x0D#8 → decode .wireByte [b] = .ok .sot) ∧
    (b = 0x0A#8 → decode .wireByte [b] = .ok .eot) ∧
    (b = 0x5E#8 → decode .wireByte [b] = .ok .soe) ∧
    (b ≠ 0x0D#8 → b ≠ 0x0A#8 → b ≠ 0x5E#8 → decode .wireByte [b] = .ok (.data b)) ∧
    decode .wireByte [b] = .ok (decodeOutcome (.byte b))

/-- Words written out from the spec's encodings (30_encoding.md R50, R56, R58, R52, R54; the telegram is 95_test_vectors.md X5)
decode to the instructions they stand for. The order of a table word's bytes is log 2; that the 8-bit words 0x05 and 0xFF are type
codes and 0x41 a wire byte is the model's choice of log 2 (by R51 the first two are DATA bytes as well). -/
def Obligations.WrittenOutWordsDecode : Prop :=
  decodeTableWord 8 0b00001101 = some .sot ∧
  decodeTableWord 8 0b00001010 = some .eot ∧
  decodeTableWord 8 0b01011110 = some .soe ∧
  decodeTableWord 8 0b01000001 = some (.data 0x41#8) ∧
  decodeTableWord 16 0b0101111001001101 = some .escSot ∧
  decodeTableWord 16 0b0101111010011110 = some .escSoe ∧
  decodeTableWord 16 0b0101111001000001 = some (.escAny 0x41#8) ∧
  decodeTableWord 8 0b00000101 = some .typeWrcmd ∧
  decodeTableWord 8 0b11111111 = some .typeNone ∧
  (decode .typeCode [0x0B#8]).toOption = some (.typeUnlisted 0x0B#8) ∧
  (decode .telegram [0x0D#8, 0x02#8, 0x01#8, 0x04#8, 0x10#8, 0x04#8, 0xAD#8, 0x0A#8]).toOption =
    some (.telegramTx 0x02#8 0x01#8 0x04#8 0x10#8 [] 0x04#8 0xAD#8) ∧
  (decode .body [0x02#8, 0x08#8, 0x10#8, 0x12#8, 0x34#8, 0x91#8, 0xE5#8]).toOption =
    some (.bodyRx 0x02#8 0x08#8 0x10#8 [0x12#8, 0x34#8] 0x91#8 0xE5#8)

/-- No bit of an encoding is dropped: decoding the encoding of a well-formed instruction gives it back, for every format
and every operand (30_encoding.md R51, R52, R54, R56, R58, R61). -/
def Obligations.DecodeOfEncodeIsTheInstruction : Prop :=
  ∀ (i : Instr) (bs : List Byte), wellFormed i = true → encode i = some bs → decode (formatOf i) bs = .ok i

/-- The other direction: what decodes is well-formed, of its format, and encodes to the same bytes, so each byte string of a
format has one meaning. For telegrams this rests on log 21 (the decoder takes only what ENC.FRAME can have written), for what is
well-formed on log 18. -/
def Obligations.EncodeOfDecodeIsTheBytes : Prop :=
  ∀ (f : Format) (bs : List Byte) (i : Instr), decode f bs = .ok i →
    wellFormed i = true ∧ formatOf i = f ∧ encode i = some bs

/-- A step between receive loops runs the instruction at the front of `pending`, encoded or not, on the state that no longer lists
it; an entry that decodes to nothing or whose operands its row does not admit is refused (log 18); and a word of the table placed by
withFetchWord is the next one run (log 1, log 2). -/
def Obligations.StepRunsTheFetchedInstruction : Prop :=
  (∀ (s : State) (rest : List Stimulus) (f : Format) (bs : List Byte) (i : Instr), s.loop = none →
    s.pending = .encoded f bs :: rest → decode f bs = .ok i → wellFormed i = true →
    step s = exec i { s with pending := rest }) ∧
  (∀ (s : State) (rest : List Stimulus) (i : Instr), s.loop = none → s.pending = .op i :: rest → wellFormed i = true →
    step s = exec i { s with pending := rest }) ∧
  (∀ (s : State) (rest : List Stimulus) (f : Format) (bs : List Byte) (e : DecodeError), s.loop = none →
    s.pending = .encoded f bs :: rest → decode f bs = .error e → step s = .refused (.undecodable e)) ∧
  (∀ (s : State) (rest : List Stimulus) (i : Instr), s.loop = none → s.pending = .op i :: rest → wellFormed i = false →
    step s = .refused .illFormed) ∧
  (∀ (s : State) (nbits w : Nat) (i : Instr), decodeTableWord nbits w = some i → wellFormed i = true →
    step (s.withFetchWord nbits w) = exec i { s with loop := none })

/-- 43_receiver.md R101, R117, with 10_state.md R19 (a) and log 10: while a receive loop runs, a step consumes exactly one read outcome
(the oldest buffered byte, else the next outcome the state lists, else a free one), runs the instruction it is, and tests the loop's
condition. -/
def Obligations.LoopStepConsumesOneReadOutcome : Prop :=
  ∀ (s : State) (c : Caller), s.loop = some c → s.rxState.hunting = true →
    (∀ b bs, s.buffered = b :: bs → ∀ t, exec (decodeWire b) { s with buffered := bs } = .next t →
      step s = .next (settle t)) ∧
    (∀ o os, s.buffered = [] → s.upcoming = o :: os → ∀ t, exec (decodeOutcome o) { s with upcoming := os } = .next t →
      step s = .next (settle t)) ∧
    (s.buffered = [] → s.upcoming = [] →
      ∃ (o : ReadOutcome) (t : State), exec (decodeOutcome o) { s with draws := s.draws + 1 } = .next t ∧
        step s = .next (settle t))

/-- 70_reset_and_hazards.md R150: "After reset the block is idle". With no loop running and nothing pending a step changes nothing; that idling
is a step at all is the model's choice (log 13). -/
def Obligations.NothingPendingLeavesTheBlockIdle : Prop :=
  ∀ s : State, s.loop = none → s.pending = [] → step s = .next s

/-! ### The receiver, rule by rule -/

/-- 43_receiver.md R100. -/
def Obligations.StartBeginsAnAttemptInEveryState : Prop :=
  ∀ (a t r : Byte) (s : State),
    exec (.rxStart a t r) s =
      .next { s with
        rxState := .huntingStart, escPending := false, body := [], payload := [], expAddr := a, expType := t, expReg := r }

/-- 43_receiver.md R103: in a terminal state RX.BYTE and RX.FAIL are not enabled and only RX.START is. The stop is a fault of its own
name, not the identity (log 12). -/
def Obligations.TerminalStatesHaveNoStep : Prop :=
  ∀ s : State, s.rxState.hunting = false →
    (∀ i b, arrivalByte i = some b → exec i s = .fault .noStep) ∧
    exec .rxFailTimeout s = .fault .noStep ∧
    exec .rxFailConnLost s = .fault .noStep ∧
    ∀ a t r, ∃ u, exec (.rxStart a t r) s = .next u ∧ u.rxState = .huntingStart

/-- 43_receiver.md R104, for every row that is the arrival of a byte (log 4). -/
def Obligations.HuntingStartDiscardsEveryByteButSot : Prop :=
  ∀ (i : Instr) (b : Byte) (s : State), arrivalByte i = some b → s.rxState = .huntingStart → b ≠ 0x0D#8 →
    exec i s = .next s

/-- 43_receiver.md R105, for every row that is the arrival of that byte (log 4). -/
def Obligations.SotOpensAFrame : Prop :=
  ∀ (i : Instr) (s : State), arrivalByte i = some 0x0D#8 → s.rxState = .huntingStart →
    exec i s = .next { s with body := [], escPending := false, rxState := .huntingEnd }

/-- 43_receiver.md R107 (with R111 to R114 and the priority of R138), whatever `esc_pending` is; for every
row that is the arrival of that byte (log 4). -/
def Obligations.EotClosesTheFrame : Prop :=
  ∀ (i : Instr) (s : State), arrivalByte i = some 0x0A#8 → s.rxState = .huntingEnd →
    exec i s = .next
      (if s.body.length < 5 then { s with rxState := .tooShort }
       else if crcCompute s.body ≠ 0x0000#16 then { s with rxState := .checksumInvalid }
       else if s.body[0]? ≠ some s.expAddr ∨ s.body[1]? ≠ some s.expType ∨ s.body[2]? ≠ some s.expReg then
         { s with rxState := .contentMismatch }
       else { s with payload := (s.body.take (s.body.length - 2)).drop 3, rxState := .ready })

/-- 43_receiver.md R108, for every row that is the arrival of that byte (log 4). -/
def Obligations.SoeSetsEscapePending : Prop :=
  ∀ (i : Instr) (s : State), arrivalByte i = some 0x5E#8 → s.rxState = .huntingEnd → s.escPending = false →
    exec i s = .next { s with escPending := true }

/-- 43_receiver.md R109, for every row that is the arrival of a byte (log 4); 0x0D falls under it. -/
def Obligations.PlainDataByteIsAppended : Prop :=
  ∀ (i : Instr) (b : Byte) (s : State), arrivalByte i = some b → s.rxState = .huntingEnd → s.escPending = false →
    b ≠ 0x0A#8 → b ≠ 0x5E#8 →
    exec i s = .next { s with body := s.body ++ [b] }

/-- 43_receiver.md R110, for every row that is the arrival of a byte (log 4); 0x5E and 0x0D fall under it, and the subtraction wraps. -/
def Obligations.EscapedDataByteIsAppendedLessEcc : Prop :=
  ∀ (i : Instr) (b : Byte) (s : State), arrivalByte i = some b → s.rxState = .huntingEnd → s.escPending = true →
    b ≠ 0x0A#8 →
    exec i s = .next { s with body := s.body ++ [BitVec.ofNat 8 ((b.toNat + 256 - 0x40) % 256)], escPending := false }

/-- 43_receiver.md R115. -/
def Obligations.TimeoutEndsTheAttempt : Prop :=
  ∀ s : State, s.rxState = .huntingStart ∨ s.rxState = .huntingEnd →
    exec .rxFailTimeout s = .next { s with rxState := .readTimeout }

/-- 43_receiver.md R116. -/
def Obligations.ConnectionLossEndsTheAttempt : Prop :=
  ∀ s : State, s.rxState = .huntingStart ∨ s.rxState = .huntingEnd →
    exec .rxFailConnLost s = .next { s with rxState := .transportLost }

/-- 43_receiver.md R117: RX.RUN waits in its loop while the receiver hunts (the turns of the loop are later steps, log 14) and
returns `rx_state` and `payload` at once in a terminal state. Where a returned value stands is the model's choice (log 3). -/
def Obligations.RunWaitsWhileHunting : Prop :=
  ∀ s : State,
    (s.rxState.hunting = true → exec .rxRun s = .next { s with loop := some .run }) ∧
    (s.rxState.hunting = false →
      exec .rxRun s = .next { s with loop := none, result := .outcome s.rxState s.payload })

/-- 43_receiver.md R117, 70_reset_and_hazards.md R153 step 6, 30_encoding.md R64: a turn of the loop that reaches a terminal state ends it and returns
to the caller what the caller's rule says; a turn that does not, goes on (log 3, log 14). -/
def Obligations.LoopReturnsToItsCaller : Prop :=
  ∀ (s t : State) (c : Caller), s.loop = some c → s.rxState.hunting = true → step s = .next t →
    (t.rxState.hunting = true → t.loop = some c ∧ t.result = s.result) ∧
    (t.rxState.hunting = false → t.loop = none ∧
      t.result =
        match c with
        | .run => .outcome t.rxState t.payload
        | .request => if t.rxState = .ready then .reply t.payload else .failed t.rxState
        | .readRegister => .registerRead (if t.rxState = .ready then some t.payload else none)
        | .writeRegister => .registerWritten (t.rxState == .ready))

/-! ### Escape pairs, type codes, telegrams -/

/-- 30_encoding.md R56, R61 (rows 1 to 3): inside a frame with no escape pending a pair `0x5E, c` appends the byte it stands for and leaves no
escape pending (the arrival of two bytes, log 8). -/
def Obligations.EscapePairInAFrameAppendsOneByte : Prop :=
  ∀ s : State, s.rxState = .huntingEnd → s.escPending = false →
    exec .escSot s = .next { s with body := s.body ++ [0x0D#8] } ∧
    exec .escEot s = .next { s with body := s.body ++ [0x0A#8] } ∧
    exec .escSoe s = .next { s with body := s.body ++ [0x5E#8] } ∧
    ∀ c : Byte, c ≠ 0x0A#8 → exec (.escAny c) s = .next { s with body := s.body ++ [c - 0x40#8] }

/-- The same two bytes elsewhere (43_receiver.md R103, R104, R105, R108 to R110; log 8): discarded while hunting for SOT, but that a
second byte 0x0D opens a frame; taken as an escaped 0x5E and one more byte when an escape is pending; no step in a terminal state. -/
def Obligations.EscapePairElsewhere : Prop :=
  ∀ s : State,
    (s.rxState = .huntingStart →
      exec .escSot s = .next s ∧ exec .escEot s = .next s ∧ exec .escSoe s = .next s ∧
      exec (.escAny 0x0D#8) s = .next { s with body := [], escPending := false, rxState := .huntingEnd } ∧
      ∀ c : Byte, c ≠ 0x0D#8 → exec (.escAny c) s = .next s) ∧
    (s.rxState = .huntingEnd → s.escPending = true →
      exec .escSot s = .next { s with body := s.body ++ [0x1E#8, 0x4D#8], escPending := false } ∧
      exec .escEot s = .next { s with body := s.body ++ [0x1E#8, 0x4A#8], escPending := false } ∧
      exec .escSoe s = .next { s with body := s.body ++ [0x1E#8, 0x9E#8], escPending := false } ∧
      exec (.escAny 0x5E#8) s = .next { s with body := s.body ++ [0x1E#8], escPending := true } ∧
      ∀ c : Byte, c ≠ 0x0A#8 → c ≠ 0x5E#8 →
        exec (.escAny c) s = .next { s with body := s.body ++ [0x1E#8, c], escPending := false }) ∧
    (s.rxState.hunting = false →
      exec .escSot s = .fault .noStep ∧ exec .escEot s = .fault .noStep ∧ exec .escSoe s = .fault .noStep ∧
      ∀ c : Byte, exec (.escAny c) s = .fault .noStep)

/-- 30_encoding.md R58 to R60: a type code is classified by membership in {0x05, 0x06, 0x07, 0x09}, an unlisted one is not write-class, and
nothing but the returned value changes. That running a type code returns its class is the model's choice (log 3, log 5). -/
def Obligations.TypeCodesAreClassified : Prop :=
  ∀ s : State,
    exec .typeNack s = .next { s with result := .typeCode 0x00#8 false } ∧
    exec .typeCrc s = .next { s with result := .typeCode 0x01#8 false } ∧
    exec .typeBusy s = .next { s with result := .typeCode 0x02#8 false } ∧
    exec .typeAck s = .next { s with result := .typeCode 0x03#8 false } ∧
    exec .typeRdcmd s = .next { s with result := .typeCode 0x04#8 false } ∧
    exec .typeWrcmd s = .next { s with result := .typeCode 0x05#8 true } ∧
    exec .typeWrset s = .next { s with result := .typeCode 0x06#8 true } ∧
    exec .typeWrclr s = .next { s with result := .typeCode 0x07#8 true } ∧
    exec .typeDatagram s = .next { s with result := .typeCode 0x08#8 false } ∧
    exec .typeWrtgl s = .next { s with result := .typeCode 0x09#8 true } ∧
    exec .typeNone s = .next { s with result := .typeCode 0xFF#8 false } ∧
    ∀ t : Byte, 0x0A#8 ≤ t → t ≤ 0xFE#8 →
      wellFormed (.typeUnlisted t) = true ∧
      exec (.typeUnlisted t) s = .next { s with result := .typeCode t false }

/-- 30_encoding.md R52, 20_memory.md R32, R38: the telegram goes to the transport as one write, delimiters raw and every body byte escaped (log 6);
a well-formed TELEGRAM.TX is what ENC.FRAME gives for its fields. -/
def Obligations.TelegramIsWrittenOnce : Prop :=
  ∀ (dest src ty reg : Byte) (payload : List Byte) (hi lo : Byte) (s : State),
    exec (.telegramTx dest src ty reg payload hi lo) s =
      .next { s with
        sent := s.sent ++ [[0x0D#8] ++ escEncSeq ([dest, src, ty, reg] ++ payload ++ [hi, lo]) ++ [0x0A#8]] } ∧
    (wellFormed (.telegramTx dest src ty reg payload hi lo) = true →
      encode (.telegramTx dest src ty reg payload hi lo) = some (encFrame dest src ty reg payload))

/-- 30_encoding.md R54, 43_receiver.md R111 to R114: a frame arriving with a given de-escaped body is classified by its checksum and by
positions 0, 1, 2, and its payload is what stands between position 3 and the checksum (the arrival of the whole frame, log 7). -/
def Obligations.ReceivedBodyIsClassified : Prop :=
  ∀ (addr ty reg : Byte) (payload : List Byte) (hi lo : Byte) (s : State), s.rxState = .huntingStart →
    exec (.bodyRx addr ty reg payload hi lo) s = .next
      (if crcCompute ([addr, ty, reg] ++ payload ++ [hi, lo]) ≠ 0x0000#16 then
         { s with rxState := .checksumInvalid, escPending := false, body := [addr, ty, reg] ++ payload ++ [hi, lo] }
       else if addr ≠ s.expAddr ∨ ty ≠ s.expType ∨ reg ≠ s.expReg then
         { s with rxState := .contentMismatch, escPending := false, body := [addr, ty, reg] ++ payload ++ [hi, lo] }
       else
         { s with
           rxState := .ready, escPending := false, body := [addr, ty, reg] ++ payload ++ [hi, lo], payload := payload })

/-- 43_receiver.md R107 to R110, R103 for BODY.RX where no frame can open (log 7): inside a frame its SOT is data (0x0D, or 0xCD when an
escape is pending), its body is de-escaped after it, and its EOT closes that frame on the whole; in a terminal state there is no step. -/
def Obligations.ReceivedBodyElsewhere : Prop :=
  ∀ (addr ty reg : Byte) (payload : List Byte) (hi lo : Byte) (s : State),
    (s.rxState = .huntingEnd →
      let b := s.body ++ [if s.escPending then 0xCD#8 else 0x0D#8] ++ [addr, ty, reg] ++ payload ++ [hi, lo]
      exec (.bodyRx addr ty reg payload hi lo) s = .next
        (if crcCompute b ≠ 0x0000#16 then { s with rxState := .checksumInvalid, escPending := false, body := b }
         else if b[0]? ≠ some s.expAddr ∨ b[1]? ≠ some s.expType ∨ b[2]? ≠ some s.expReg then
           { s with rxState := .contentMismatch, escPending := false, body := b }
         else
           { s with
             rxState := .ready, escPending := false, body := b, payload := (b.take (b.length - 2)).drop 3 })) ∧
    (s.rxState.hunting = false → exec (.bodyRx addr ty reg payload hi lo) s = .fault .noStep)

/-! ### The pure operations: what they return -/

/-- 40_crc.md R71, the pseudocode and its corner cases; the value is returned to the caller and nothing else changes (log 3). -/
def Obligations.CrcStepIsTheShiftRegister : Prop :=
  (∀ (c : Word16) (b : Byte) (s : State),
    exec (.crcStep c b) s = .next { s with
      result := .word ((List.range 8).foldl
        (fun (r : Word16) _ => if r.getLsbD 15 then (r <<< 1) ^^^ 0x1021#16 else r <<< 1)
        (c ^^^ (b.setWidth 16 <<< 8))) }) ∧
  crcStep 0x0000#16 0x00#8 = 0x0000#16 ∧ crcStep 0x0000#16 0x01#8 = 0x1021#16 ∧ crcStep 0x0001#16 0x00#8 = 0x0100#16 ∧
  crcStep 0x8000#16 0x00#8 = 0x9188#16 ∧ crcStep 0xFFFF#16 0x00#8 = 0xE1F0#16 ∧ crcStep 0x0000#16 0x80#8 = 0x9188#16

/-- 40_crc.md R72, R73: CRC.COMPUTE is the left fold of CRC.STEP from 0, CRC.VERIFY asks whether it is 0, at every length (log 3). -/
def Obligations.CrcComputeFoldsAndVerifyTestsZero : Prop :=
  ∀ (bytes : List Byte) (s : State),
    exec (.crcCompute bytes) s = .next { s with result := .word (bytes.foldl crcStep 0x0000#16) } ∧
    exec (.crcVerify bytes) s = .next { s with result := .bool (bytes.foldl crcStep 0x0000#16 == 0x0000#16) }

/-- 41_escape_codec.md R80, R81: a reserved byte becomes 0x5E and the byte plus 0x40, any other stays, and a sequence is escaped byte by byte
(log 3). -/
def Obligations.EscapingReturnsThePairs : Prop :=
  (∀ (v : Byte) (s : State),
    exec (.escEnc v) s = .next { s with
      result := .bytes (if v = 0x0D#8 ∨ v = 0x0A#8 ∨ v = 0x5E#8 then [0x5E#8, v + 0x40#8] else [v]) }) ∧
  ∀ (bytes : List Byte) (s : State),
    exec (.escEncSeq bytes) s = .next { s with
      result := .bytes (bytes.flatMap fun v => if v = 0x0D#8 ∨ v = 0x0A#8 ∨ v = 0x5E#8 then [0x5E#8, v + 0x40#8] else [v]) }

/-- 41_escape_codec.md R82, R83: the three cases of a de-escaping step, and a sequence de-escaped as the fold of the steps from no escape
pending, a pending escape at the end dropped (log 3). The byte 0x0A as an operand follows the same pseudocode (log 26). -/
def Obligations.DeescapingReturnsTheBytes : Prop :=
  (∀ (p : Bool) (b : Byte) (s : State),
    exec (.escDecStep p b) s = .next { s with
      result :=
        if b = 0x5E#8 ∧ p = false then .decStep true none
        else if p = true then .decStep false (some (b - 0x40#8))
        else .decStep false (some b) }) ∧
  ∀ (bytes : List Byte) (s : State),
    exec (.escDecSeq bytes) s = .next { s with
      result := .bytes (bytes.foldl
        (fun (q : Bool × List Byte) b =>
          if b = 0x5E#8 ∧ q.1 = false then (true, q.2)
          else if q.1 = true then (false, q.2 ++ [b - 0x40#8])
          else (false, q.2 ++ [b])) (false, [])).2 }

/-- 42_frame_encoder.md R90, the pseudocode: the checksum over the unescaped content, high byte first, the body escaped, the delimiters raw
(log 3). -/
def Obligations.EncodingReturnsTheTelegram : Prop :=
  ∀ (dest src ty reg : Byte) (payload : List Byte) (s : State),
    exec (.encFrame dest src ty reg payload) s = .next { s with
      result := .bytes (
        let p := if ty = 0x05#8 ∨ ty = 0x06#8 ∨ ty = 0x07#8 ∨ ty = 0x09#8 then payload else []
        let content := [dest, src, ty, reg] ++ p
        let w := crcCompute content
        [0x0D#8] ++ escEncSeq (content ++ [w.extractLsb' 8 8, w.extractLsb' 0 8]) ++ [0x0A#8]) }

/-- 42_frame_encoder.md R91: the payload is ignored unless the type is in {0x05, 0x06, 0x07, 0x09}, and the operation still succeeds. -/
def Obligations.PayloadIsDroppedUnlessWriteClass : Prop :=
  ∀ (dest src ty reg : Byte) (payload : List Byte) (s : State),
    ty ≠ 0x05#8 → ty ≠ 0x06#8 → ty ≠ 0x07#8 → ty ≠ 0x09#8 →
    exec (.encFrame dest src ty reg payload) s = exec (.encFrame dest src ty reg []) s ∧
    ∃ t, exec (.encFrame dest src ty reg payload) s = .next t

/-- 20_memory.md R36: the checksum occupies two bytes, the high one first. -/
def Obligations.ChecksumFieldIsBigEndian : Prop :=
  ∀ w : Word16, ∃ hi lo : Byte, be16 w = [hi, lo] ∧ hi.toNat * 256 + lo.toNat = w.toNat

/-! ### Laws of the checksum -/

/-- 40_crc.md R74 (a) (the spec's own inference). -/
def Obligations.AppendedChecksumVerifies : Prop :=
  ∀ x : List Byte, crcVerify (x ++ be16 (crcCompute x)) = true

/-- 40_crc.md R74 (b) (the spec's own inference). -/
def Obligations.OnlyTheComputedChecksumVerifies : Prop :=
  ∀ (x : List Byte) (w : Word16), crcVerify (x ++ be16 w) = true ↔ w = crcCompute x

/-- 40_crc.md R74 (c), (d): leading zeros change nothing, and a checksum can be continued from the one before. -/
def Obligations.ChecksumIsIncremental : Prop :=
  (∀ (n : Nat) (x : List Byte), crcCompute (List.replicate n 0x00#8 ++ x) = crcCompute x) ∧
  ∀ x y : List Byte, crcCompute (x ++ y) = y.foldl crcStep (crcCompute x)

/-- 40_crc.md R74 (e) (the spec's own inference). -/
def Obligations.ChecksumIsLinear : Prop :=
  ∀ x y : List Byte, x.length = y.length →
    crcCompute (List.zipWith (· ^^^ ·) x y) = crcCompute x ^^^ crcCompute y

/-- 40_crc.md R74 (f) (general knowledge, by the spec's own mark; log 15): a verified sequence with an error burst of at most 16 bits (a non-zero 16-bit pattern, shifted by 0 to 8 bits
across three bytes, anywhere; a single bit is such a burst) no longer verifies; in a sequence of at most two bytes every error is such
a burst, and none goes undetected. -/
def Obligations.BurstErrorsAreDetected : Prop :=
  (∀ (x y : List Byte), crcVerify x = true → x.length ≤ 2 → y.length = x.length → y ≠ x → crcVerify y = false) ∧
  ∀ (x : List Byte) (m n k : Nat) (w : Word16), crcVerify x = true → w ≠ 0x0000#16 → k ≤ 8 → x.length = m + 3 + n →
    crcVerify (List.zipWith (· ^^^ ·) x
      (List.replicate m 0x00#8 ++
        [(w.setWidth 24 <<< k).extractLsb' 16 8, (w.setWidth 24 <<< k).extractLsb' 8 8,
          (w.setWidth 24 <<< k).extractLsb' 0 8] ++
        List.replicate n 0x00#8)) = false

/-! ### Laws of the codec and the encoder -/

/-- 41_escape_codec.md R84 (the spec's own inference). -/
def Obligations.DeescapingUndoesEscaping : Prop :=
  ∀ y : List Byte, escDecSeq (escEncSeq y) = y

/-- 41_escape_codec.md R85 (the spec's own inference). -/
def Obligations.EscapedBytesHoldNoDelimiter : Prop :=
  (∀ y : List Byte,
    0x0D#8 ∉ escEncSeq y ∧ 0x0A#8 ∉ escEncSeq y ∧
    ∀ j : Nat, (escEncSeq y)[j]? = some 0x5E#8 →
      (escEncSeq y)[j + 1]? = some 0x4D#8 ∨ (escEncSeq y)[j + 1]? = some 0x4A#8 ∨ (escEncSeq y)[j + 1]? = some 0x9E#8) ∧
  ∀ (dest src ty reg : Byte) (payload : List Byte),
    ∃ mid, encFrame dest src ty reg payload = [0x0D#8] ++ mid ++ [0x0A#8] ∧ 0x0D#8 ∉ mid ∧ 0x0A#8 ∉ mid

/-- 41_escape_codec.md R86: the other direction holds exactly on canonical input, in both descriptions of canonical; ESC.ENCSEQ is
injective and ESC.DECSEQ is not; the rule's two counterexamples. -/
def Obligations.EscapingUndoesDeescapingOnlyOnCanonicalInput : Prop :=
  (∀ x : List Byte, escEncSeq (escDecSeq x) = x ↔ ∃ y, x = escEncSeq y) ∧
  (∀ x : List Byte, (∃ y, x = escEncSeq y) ↔
    (0x0D#8 ∉ x ∧ 0x0A#8 ∉ x ∧ ∀ j : Nat, x[j]? = some 0x5E#8 →
      x[j + 1]? = some 0x4D#8 ∨ x[j + 1]? = some 0x4A#8 ∨ x[j + 1]? = some 0x9E#8)) ∧
  (∀ x y : List Byte, escEncSeq x = escEncSeq y → x = y) ∧
  escDecSeq [0x5E#8, 0x41#8] = [0x01#8] ∧ escEncSeq [0x01#8] = [0x01#8] ∧ escDecSeq [0x5E#8] = [] ∧
  escDecSeq [0x01#8] = escDecSeq [0x5E#8, 0x41#8]

/-- 30_encoding.md R53: `2 + m + k` bytes for a body of `m = 6 + n` bytes of which `k` are reserved; the least telegram has 8 bytes, and there
is no greatest. -/
def Obligations.TelegramLengthOnTheWire : Prop :=
  (∀ (dest src ty reg : Byte) (payload : List Byte),
    let p := carried ty payload
    let body := [dest, src, ty, reg] ++ p ++ be16 (crcCompute ([dest, src, ty, reg] ++ p))
    body.length = 6 + p.length ∧
    (encFrame dest src ty reg payload).length =
      2 + (6 + p.length) + body.countP (fun v => v == 0x0D#8 || v == 0x0A#8 || v == 0x5E#8) ∧
    8 ≤ (encFrame dest src ty reg payload).length) ∧
  (∃ dest src ty reg payload, (encFrame dest src ty reg payload).length = 8) ∧
  ∀ n : Nat, ∃ dest src ty reg payload, n < (encFrame dest src ty reg payload).length

/-- 42_frame_encoder.md R92 (a) to (e) (the spec's own inference). -/
def Obligations.EncodedTelegramProperties : Prop :=
  (∀ (dest src ty reg : Byte) (payload : List Byte),
    let p := if ty = 0x05#8 ∨ ty = 0x06#8 ∨ ty = 0x07#8 ∨ ty = 0x09#8 then payload else []
    let t := encFrame dest src ty reg payload
    let body := [dest, src, ty, reg] ++ p ++ be16 (crcCompute ([dest, src, ty, reg] ++ p))
    t[0]? = some 0x0D#8 ∧ t[t.length - 1]? = some 0x0A#8 ∧
    (∀ j : Nat, 0 < j → j < t.length - 1 → t[j]? ≠ some 0x0D#8 ∧ t[j]? ≠ some 0x0A#8) ∧
    escDecSeq ((t.take (t.length - 1)).drop 1) = body ∧ body.length = 6 + p.length ∧
    crcVerify body = true ∧
    8 + p.length ≤ t.length ∧ t.length ≤ 2 + 2 * (6 + p.length)) ∧
  ∀ (d1 s1 t1 r1 : Byte) (p1 : List Byte) (d2 s2 t2 r2 : Byte) (p2 : List Byte),
    wellFormedTelegram t1 p1 = true → wellFormedTelegram t2 p2 = true →
    encFrame d1 s1 t1 r1 p1 = encFrame d2 s2 t2 r2 p2 →
    d1 = d2 ∧ s1 = s2 ∧ t1 = t2 ∧ r1 = r2 ∧ p1 = p2

/-! ### Whole receive attempts -/

/-- 42_frame_encoder.md R93: a telegram of ENC.FRAME, read back after RX.START(a, ty, r), is accepted exactly if its destination, source and
type are the three expected bytes, and its register is then the first payload byte. -/
def Obligations.TelegramReadBackByTheReceiver : Prop :=
  ∀ (dest src type reg : Byte) (payload : List Byte) (a ty r : Byte) (s : State) (rest : List ReadOutcome),
    let p := carried type payload
    let body := [dest, src, type, reg] ++ p ++ be16 (crcCompute ([dest, src, type, reg] ++ p))
    ∃ t, exec (.rxStart a ty r) s = .next t ∧
      attempt (bytesRead (encFrame dest src type reg payload) ++ rest) t =
        (if dest = a ∧ src = ty ∧ type = r then
           ({ t with rxState := .ready, body := body, payload := [reg] ++ p }, rest)
         else ({ t with rxState := .contentMismatch, body := body }, rest))

/-- 43_receiver.md R119 (a), (b), (d), (e): bytes before the first SOT have no effect, the body checked is the de-escaping of the bytes between
it and the first EOT after it, the outcome is that of the EOT on that body, and everything after is unread. -/
def Obligations.AttemptConsidersTheFirstFrame : Prop :=
  ∀ (s : State) (noise mid : List Byte) (rest : List ReadOutcome), s.rxState = .huntingStart →
    0x0D#8 ∉ noise → 0x0A#8 ∉ mid →
    ∃ (p : Bool) (t : State),
      exec .eot { s with rxState := .huntingEnd, escPending := p, body := escDecSeq mid } = .next t ∧
      attempt (bytesRead (noise ++ [0x0D#8] ++ mid ++ [0x0A#8]) ++ rest) s = (t, rest) ∧
      t.rxState.hunting = false

/-- 43_receiver.md R119 (a), (c): a failure before the frame closes ends the attempt, whatever bytes came before it; the partial body is neither
checked nor delivered, and everything after is unread. -/
def Obligations.FailureBeforeTheFrameClosesEndsTheAttempt : Prop :=
  ∀ (s : State) (noise mid : List Byte) (rest : List ReadOutcome), s.rxState = .huntingStart → 0x0D#8 ∉ noise → 0x0A#8 ∉ mid →
    attempt (bytesRead noise ++ .timeout :: rest) s = ({ s with rxState := .readTimeout }, rest) ∧
    attempt (bytesRead noise ++ .connLost :: rest) s = ({ s with rxState := .transportLost }, rest) ∧
    ∃ p : Bool,
      attempt (bytesRead (noise ++ [0x0D#8] ++ mid) ++ .timeout :: rest) s =
        ({ s with rxState := .readTimeout, escPending := p, body := escDecSeq mid }, rest) ∧
      attempt (bytesRead (noise ++ [0x0D#8] ++ mid) ++ .connLost :: rest) s =
        ({ s with rxState := .transportLost, escPending := p, body := escDecSeq mid }, rest)

/-- 43_receiver.md R119 (g): a stream with a well-made frame that carries the expected header is accepted, with its payload. -/
def Obligations.WellMadeFrameIsAccepted : Prop :=
  ∀ (s : State) (noise content : List Byte) (rest : List ReadOutcome), s.rxState = .huntingStart → 0x0D#8 ∉ noise →
    3 ≤ content.length → content[0]? = some s.expAddr → content[1]? = some s.expType → content[2]? = some s.expReg →
    attempt (bytesRead (noise ++ [0x0D#8] ++ escEncSeq (content ++ be16 (crcCompute content)) ++ [0x0A#8]) ++ rest) s =
      ({ s with
          rxState := .ready, escPending := false, body := content ++ be16 (crcCompute content), payload := content.drop 3 }, rest)

/-- 43_receiver.md R117, R119: the steps of a running loop are the receive attempt over the buffered bytes and then the outcomes the state lists;
if that attempt ends, the loop returns with its end state, and exactly the outcomes it consumed are gone. -/
def Obligations.RunningLoopIsTheAttempt : Prop :=
  ∀ (s t : State) (c : Caller) (rest : List ReadOutcome), s.loop = some c → s.rxState.hunting = true →
    attempt (bytesRead s.buffered ++ s.upcoming) s = (t, rest) → t.rxState.hunting = false →
    ∃ k : Nat, k + rest.length = s.buffered.length + s.upcoming.length ∧
      Host.Core.run core k s = .next { t with
        buffered := s.buffered.drop k
        upcoming := s.upcoming.drop (k - s.buffered.length)
        loop := none
        result := callerResult c t }

/-- 30_encoding.md R64, 70_reset_and_hazards.md R153, 43_receiver.md R119 (g): READREGISTER flushes stale bytes, sends the read command, and, if
the link then delivers noise and a well-made DATAGRAM frame for that device and register, returns its payload; what follows the frame
is unread. That the telegram is written, and on a transport of which nothing is asked, is log 19 and log 11; the channel's lists are
log 10. -/
def Obligations.ReadRegisterReturnsTheReplyPayload : Prop :=
  ∀ (s : State) (dest reg : Byte) (noise content : List Byte) (rest : List ReadOutcome),
    s.upcoming = bytesRead (noise ++ [0x0D#8] ++ escEncSeq (content ++ be16 (crcCompute content)) ++ [0x0A#8]) ++ rest →
    0x0D#8 ∉ noise → 3 ≤ content.length → content[0]? = some dest → content[1]? = some 0x08#8 → content[2]? = some reg →
    ∃ (u v : State) (k : Nat),
      exec (.readRegister dest reg) s = .next u ∧ Host.Core.run core k u = .next v ∧
      v.result = .registerRead (some (content.drop 3)) ∧
      v.sent = s.sent ++ [encFrame dest s.masterId 0x04#8 reg []] ∧
      v.loop = none ∧ v.buffered = [] ∧ v.upcoming = rest ∧ v.pending = s.pending

/-! ### The host's operations and reset -/

/-- 70_reset_and_hazards.md R153 steps 1 to 5, 30_encoding.md R64: each of the three transactions flushes, sends one telegram with the master id, starts the
attempt with the expected bytes, and waits in RX.RUN (log 14). That it does so in every state, on a closed transport too, rests on the
model's choices of log 19 (a write never fails) and log 11 (openness is not checked). -/
def Obligations.TransactionsFlushSendAndStart : Prop :=
  ∀ (dest reg typeOut typeIn : Byte) (payload : List Byte) (s : State),
    exec (.request dest reg typeOut payload typeIn) s = .next { s with
      buffered := [], sent := s.sent ++ [encFrame dest s.masterId typeOut reg payload]
      rxState := .huntingStart, escPending := false, body := [], payload := []
      expAddr := dest, expType := typeIn, expReg := reg, loop := some .request } ∧
    exec (.readRegister dest reg) s = .next { s with
      buffered := [], sent := s.sent ++ [encFrame dest s.masterId 0x04#8 reg []]
      rxState := .huntingStart, escPending := false, body := [], payload := []
      expAddr := dest, expType := 0x08#8, expReg := reg, loop := some .readRegister } ∧
    exec (.writeRegister dest reg payload) s = .next { s with
      buffered := [], sent := s.sent ++ [encFrame dest s.masterId 0x05#8 reg payload]
      rxState := .huntingStart, escPending := false, body := [], payload := []
      expAddr := dest, expType := 0x03#8, expReg := reg, loop := some .writeRegister }

/-- 20_memory.md R32 to R34, 70_reset_and_hazards.md R154: the host's calls on the transport, as entries of `pending` (log 1). That
close and open leave unread bytes alone is the model's choice (log 27). -/
def Obligations.TransportCallsRun : Prop :=
  ∀ (s : State) (rest : List Stimulus), s.loop = none →
    (∀ seq, s.pending = .call (.chanWrite seq) :: rest → step s = .next { s with pending := rest, sent := s.sent ++ [seq] }) ∧
    (s.pending = .call .flushInput :: rest → step s = .next { s with pending := rest, buffered := [] }) ∧
    (s.pending = .call .isOpen :: rest → step s = .next { s with pending := rest, result := .bool s.chanOpen }) ∧
    (s.pending = .call .close :: rest → step s = .next { s with pending := rest, chanOpen := false }) ∧
    (∀ m, s.pending = .call (.openBus m) :: rest →
      step s = .next { s with pending := rest, chanOpen := true, masterId := m }) ∧
    (∀ bs, s.pending = .arrive bs :: rest → step s = .next { s with pending := rest, buffered := s.buffered ++ bs })

/-- 70_reset_and_hazards.md R150 (a), 10_state.md R21: the hardware reset from any state. The three expected bytes are unspecified, so the statement
says only that they are some bytes; the transport and the host are not touched. -/
def Obligations.HardwareResetClearsTheReceiver : Prop :=
  ∀ s : State, ∃ (a t r : Byte) (n : Nat),
    exec .reset s = .next { s with
      rxState := .huntingStart, escPending := false, body := [], payload := []
      expAddr := a, expType := t, expReg := r, loop := none, draws := n }

/-- 10_state.md R21 (the four elements it gives a value), 70_reset_and_hazards.md R150 (no read until RX.RUN). -/
def Obligations.ResetStateIsAsSpecified : Prop :=
  State.reset.rxState = .huntingStart ∧ State.reset.escPending = false ∧ State.reset.body = [] ∧
  State.reset.payload = [] ∧ State.reset.loop = none

/-! ### Invariants and frames -/

/-- 10_state.md R22 at reset. -/
def Obligations.ReceiverInvariantHoldsAtReset : Prop := Inv State.reset

/-- 10_state.md R22 (a) to (d): every step keeps the receiver's invariant, whatever is pending and whatever the transport answers. -/
def Obligations.EveryStepKeepsTheReceiverInvariant : Prop :=
  ∀ s t : State, Inv s → step s = .next t → Inv t

/-- 10_state.md R22 (e): within a frame no byte of `body` is removed or changed. -/
def Obligations.BodyOnlyGrowsWithinAFrame : Prop :=
  ∀ (i : Instr) (s t : State), exec i s = .next t → s.rxState = .huntingEnd → startsAttempt i = false →
    s.body <+: t.body

/-- 10_state.md R15, R22 (f): the expected bytes change only where an attempt starts or the block is reset, in an instruction and in a turn
of a running loop. -/
def Obligations.ExpectedBytesChangeOnlyAtAStart : Prop :=
  (∀ (i : Instr) (s t : State), exec i s = .next t → startsAttempt i = false →
    t.expAddr = s.expAddr ∧ t.expType = s.expType ∧ t.expReg = s.expReg) ∧
  ∀ (s t : State), s.loop ≠ none → step s = .next t →
    t.expAddr = s.expAddr ∧ t.expType = s.expType ∧ t.expReg = s.expReg

/-- 10_state.md R12, 60_exceptions.md R140, R130: starting an attempt (or the hardware reset) leads to HuntingStart from any state; otherwise
a terminal state stays, HuntingEnd never moves back to HuntingStart, HuntingEnd is entered only by the arrival of SOT in HuntingStart,
the four outcomes of a closed frame are reached only from HuntingEnd by EOT or by a whole frame (BODY.RX, log 7), and ReadTimeout and
TransportLost only by the read failure of that kind. That pairs are arrivals of two bytes is log 8. -/
def Obligations.ReceiverStateChangesOnlyAsListed : Prop :=
  (∀ (i : Instr) (s t : State), exec i s = .next t → startsAttempt i = true → t.rxState = .huntingStart) ∧
  ∀ (i : Instr) (s t : State), exec i s = .next t → startsAttempt i = false →
    (s.rxState.hunting = false → t.rxState = s.rxState) ∧
    (s.rxState = .huntingEnd → t.rxState ≠ .huntingStart) ∧
    (s.rxState = .huntingStart → t.rxState = .huntingEnd →
      arrivalByte i = some 0x0D#8 ∨ i = .escAny 0x0D#8) ∧
    (s.rxState.hunting = true →
      t.rxState = .tooShort ∨ t.rxState = .checksumInvalid ∨ t.rxState = .contentMismatch ∨ t.rxState = .ready →
      formatOf i = .body ∨ s.rxState = .huntingEnd ∧ (arrivalByte i = some 0x0A#8 ∨ i = .escAny 0x0A#8)) ∧
    (s.rxState.hunting = true → t.rxState = .readTimeout → i = .rxFailTimeout) ∧
    (s.rxState.hunting = true → t.rxState = .transportLost → i = .rxFailConnLost)

/-- 10_state.md R17, R18, 60_exceptions.md R130: the pure operations, the type codes and the handing over of a telegram complete in every state and
leave the block's seven elements, the unread input, the host and the loop as they were; only a telegram is written. -/
def Obligations.PureOperationsLeaveTheBlockAlone : Prop :=
  ∀ (i : Instr) (s : State), leavesReceiver i = true → ∃ t, exec i s = .next t ∧
    t = { s with result := t.result, sent := t.sent } ∧
    (t.sent ≠ s.sent → formatOf i = .telegram) ∧ (t.result ≠ s.result → formatOf i ≠ .telegram)

/-- 43_receiver.md R104 to R116, 10_state.md R10: an arriving byte, pair or frame and a read failure write only `rx_state`, `esc_pending`, `body` and
`payload`; a failure only the first. -/
def Obligations.ArrivalsWriteOnlyTheReceiver : Prop :=
  ∀ (i : Instr) (s t : State), exec i s = .next t →
    ((arrivalByte i).isSome = true ∨ formatOf i = .escapePair ∨ formatOf i = .body →
      t = { s with rxState := t.rxState, escPending := t.escPending, body := t.body, payload := t.payload }) ∧
    (i = .rxFailTimeout ∨ i = .rxFailConnLost → t = { s with rxState := t.rxState })

/-- 20_memory.md R30 to R34, 70_reset_and_hazards.md R150: what no instruction does to the channel and the host. Outcomes to come, openness, master id and
pending entries stay; writes are only added, by TELEGRAM.TX and the transactions alone; unread input is discarded by the
transactions' flush alone. -/
def Obligations.ChannelAndHostFrame : Prop :=
  ∀ (i : Instr) (s t : State), exec i s = .next t →
    t.upcoming = s.upcoming ∧ t.chanOpen = s.chanOpen ∧ t.masterId = s.masterId ∧ t.pending = s.pending ∧
    s.sent <+: t.sent ∧
    (t.sent ≠ s.sent → formatOf i = .telegram ∨
      (startsAttempt i = true ∧ (∀ a ty r, i ≠ .rxStart a ty r) ∧ i ≠ .reset)) ∧
    (t.buffered = s.buffered ∨ (t.buffered = [] ∧ startsAttempt i = true ∧ (∀ a ty r, i ≠ .rxStart a ty r) ∧ i ≠ .reset))
end

