-- ==== Sys2Proof/Laws/Crc.lean ====
section
/-! SUPPORT. Small laws of the checksum's functions: they are linear over xor, lose nothing, and continue (spec 40_crc.md R74). -/

namespace Sys2Proof.Machine

/-! ### Linearity -/

theorem crcShift_xor (a b : Word16) : crcShift (a ^^^ b) = crcShift a ^^^ crcShift b := by
  simp only [crcShift, BitVec.getLsbD_xor, BitVec.shiftLeft_xor_distrib]
  cases a.getLsbD 15 <;> cases b.getLsbD 15 <;> simp <;> ext i <;> simp <;> grind

@[simp] theorem crcShift_zero : crcShift 0x0000#16 = 0x0000#16 := by decide

theorem crcShifts_xor (n : Nat) (a b : Word16) : crcShifts n (a ^^^ b) = crcShifts n a ^^^ crcShifts n b := by
  induction n generalizing a b with
  | zero => rfl
  | succ n ih => simp only [crcShifts, crcShift_xor, ih]

@[simp] theorem crcShifts_zero (n : Nat) : crcShifts n 0x0000#16 = 0x0000#16 := by
  induction n with
  | zero => rfl
  | succ n ih => simp [crcShifts, ih]

/-- CRC.STEP is linear in both operands together. -/
theorem crcStep_xor (c c' : Word16) (b b' : Byte) :
    crcStep (c ^^^ c') (b ^^^ b') = crcStep c b ^^^ crcStep c' b' := by
  simp only [crcStep, ← crcShifts_xor, BitVec.setWidth_xor, BitVec.shiftLeft_xor_distrib]
  congr 1
  ext i
  simp only [BitVec.getElem_xor]
  grind

@[simp] theorem crcStep_zero : crcStep 0x0000#16 0x00#8 = 0x0000#16 := by decide

/-! ### Nothing is lost -/

/-- A turn of the loop sends only zero to zero: bit 0 of the result tells whether the polynomial was added. -/
theorem crcShift_eq_zero {r : Word16} (h : crcShift r = 0x0000#16) : r = 0x0000#16 := by
  have h0 : ∀ i, (crcShift r).getLsbD i = false := by simp [h]
  by_cases ht : r.getLsbD 15 = true
  · have := h0 0
    simp [crcShift, ht, CRC_POLY] at this
  · apply BitVec.eq_of_getLsbD_eq
    intro i hi
    by_cases h15 : i = 15
    · subst h15; simpa using ht
    · have := h0 (i + 1)
      simp only [crcShift, ht, Bool.false_eq_true, if_false, BitVec.getLsbD_shiftLeft] at this
      have h1 : i + 1 < 16 := by omega
      simpa [h1] using this

theorem crcShifts_eq_zero {n : Nat} {r : Word16} (h : crcShifts n r = 0x0000#16) : r = 0x0000#16 := by
  induction n generalizing r with
  | zero => exact h
  | succ n ih => exact crcShift_eq_zero (ih h)

/-! ### The fold -/

theorem crcFrom_append (c : Word16) (xs ys : List Byte) : crcFrom c (xs ++ ys) = crcFrom (crcFrom c xs) ys := by
  induction xs generalizing c with
  | nil => rfl
  | cons b xs ih => simp only [List.cons_append, crcFrom, ih]

theorem crcFrom_eq_foldl (c : Word16) (xs : List Byte) : crcFrom c xs = xs.foldl crcStep c := by
  induction xs generalizing c with
  | nil => rfl
  | cons b xs ih => simp only [List.foldl_cons, crcFrom, ih]

/-! ### Two bytes at the end -/

/-- Folding a word's two bytes, high byte first, over a running value is 16 turns over the xor of the two. -/
theorem crcFrom_be16 (c w : Word16) : crcFrom c (be16 w) = crcShifts 16 (c ^^^ w) := by
  have e8 : ∀ b : Byte, crcShifts 8 (b.setWidth 16) = b.setWidth 16 <<< 8 := by decide
  have split : ∀ v : Word16, v = ((hi8 v).setWidth 16 <<< 8) ^^^ (lo8 v).setWidth 16 := by
    intro v
    ext i hi
    simp only [hi8, lo8, BitVec.getElem_xor, BitVec.getElem_shiftLeft, BitVec.getElem_setWidth, BitVec.getLsbD_extractLsb',
      Nat.zero_add]
    by_cases h8 : i < 8
    · simp [h8, BitVec.getLsbD_eq_getElem, hi]
    · have h1 : 8 + (i - 8) = i := by omega
      have h2 : i - 8 < 8 := by omega
      simp [h8, h1, h2, BitVec.getLsbD_eq_getElem, hi]
  have shifts_add : ∀ (m n : Nat) (r : Word16), crcShifts (m + n) r = crcShifts n (crcShifts m r) := by
    intro m n
    induction m with
    | zero => intro r; simp [crcShifts]
    | succ m ih => intro r; rw [Nat.succ_add]; exact ih (crcShift r)
  have hd : crcShifts 8 (c ^^^ w) = crcShifts 8 (c ^^^ ((hi8 w).setWidth 16 <<< 8)) ^^^ ((lo8 w).setWidth 16 <<< 8) := by
    rw [← e8 (lo8 w), ← crcShifts_xor, BitVec.xor_assoc, ← split w]
  have h16 := shifts_add 8 8 (c ^^^ w)
  rw [hd] at h16
  exact h16.symm

end Sys2Proof.Machine
end

