-- ==== Sys2Proof/Laws/Decode.lean ====
section
/-! SUPPORT. The forms of the layout that is fixed (R5), and how a body is taken apart by the decoder (spec 30_encoding.md R52, R54). -/

namespace Sys2Proof.Machine

/-- What the encoder puts before the checksum, in the fixed layout. -/
@[simp] theorem txContent_eq (dest src ty reg : Byte) (payload : List Byte) :
    txContent dest src ty reg payload = [dest, src, ty, reg] ++ payload := rfl

/-- The body that BODY.RX stands for, in the fixed layout. -/
@[simp] theorem rxBody_eq (addr ty reg : Byte) (payload : List Byte) (crcHi crcLo : Byte) :
    rxBody addr ty reg payload crcHi crcLo = [addr, ty, reg] ++ payload ++ [crcHi, crcLo] := rfl

end Sys2Proof.Machine

namespace Sys2Proof

open Machine

/-- A payload and two checksum bytes are taken apart again. -/
@[simp] theorem splitTail_append (payload : List Byte) (hi lo : Byte) :
    splitTail (payload ++ [hi, lo]) = some (payload, hi, lo) := by
  simp [splitTail, layout]

/-- What is taken apart was a payload and two checksum bytes. -/
theorem splitTail_eq_some {tail payload : List Byte} {hi lo : Byte} (h : splitTail tail = some (payload, hi, lo)) :
    tail = payload ++ [hi, lo] := by
  unfold splitTail at h
  split at h
  · next hl lo' hd =>
    simp only [Option.some.injEq, Prod.mk.injEq] at h
    obtain ⟨rfl, rfl, rfl⟩ := h
    rw [← hd, List.take_append_drop]
  · exact absurd h (by simp)

/-- The body of a transmitted telegram, where there is one: four header bytes, a payload, two checksum bytes, well-formed. -/
theorem decodeTxBody_eq_ok {body : List Byte} {i : Instr} (h : decodeTxBody layout body = .ok i) :
    ∃ dest src ty reg payload hi lo, body = [dest, src, ty, reg] ++ payload ++ [hi, lo] ∧
      i = .telegramTx dest src ty reg payload hi lo ∧ wellFormed i = true := by
  unfold decodeTxBody at h
  split at h
  · next dest src ty reg payload hi lo ht hs =>
    split at h
    · next hw =>
      injection h with h
      subst h
      refine ⟨dest, src, ty, reg, payload, hi, lo, ?_, rfl, hw⟩
      rw [List.append_assoc, ← splitTail_eq_some hs, ← ht, List.take_append_drop]
    · exact absurd h (by simp)
  · exact absurd h (by simp)

/-- A well-formed telegram's body is decoded. -/
theorem decodeTxBody_body {dest src ty reg : Byte} {payload : List Byte} {hi lo : Byte}
    (h : wellFormed (.telegramTx dest src ty reg payload hi lo) = true) :
    decodeTxBody layout ([dest, src, ty, reg] ++ payload ++ [hi, lo]) = .ok (.telegramTx dest src ty reg payload hi lo) := by
  simp [decodeTxBody, show layout.txHdrLen = 4 from rfl, h]

/-- A received body, where there is one: three header bytes, a payload, two checksum bytes. -/
theorem decodeRxBody_eq_ok {body : List Byte} {i : Instr} (h : decodeRxBody layout body = .ok i) :
    ∃ addr ty reg payload hi lo, body = [addr, ty, reg] ++ payload ++ [hi, lo] ∧ i = .bodyRx addr ty reg payload hi lo := by
  unfold decodeRxBody at h
  split at h
  · next addr ty reg payload hi lo h0 h1 h2 hs =>
    injection h with h
    subst h
    refine ⟨addr, ty, reg, payload, hi, lo, ?_, rfl⟩
    rw [List.append_assoc, ← splitTail_eq_some hs]
    match body, h0, h1, h2 with
    | a :: b :: c :: rest, h0, h1, h2 =>
      have e0 : a = addr := by simpa [layout] using h0
      have e1 : b = ty := by simpa [layout] using h1
      have e2 : c = reg := by simpa [layout] using h2
      subst e0 e1 e2
      rfl
  · exact absurd h (by simp)

/-- Three header bytes, a payload and two checksum bytes are decoded as a received body. -/
theorem decodeRxBody_body (addr ty reg : Byte) (payload : List Byte) (hi lo : Byte) :
    decodeRxBody layout ([addr, ty, reg] ++ payload ++ [hi, lo]) = .ok (.bodyRx addr ty reg payload hi lo) := by
  simp [decodeRxBody, show layout.rxPosAddr = 0 from rfl, show layout.rxPosType = 1 from rfl,
    show layout.rxPosReg = 2 from rfl, show layout.rxPayloadStart = 3 from rfl]

end Sys2Proof
end

