-- ==== Sys2Proof/Laws/Escape.lean ====
section
/-! SUPPORT. Small laws of the escape codec's functions (spec 41_escape_codec.md R84, R85): how de-escaping takes one escaped byte, and what
an escaped byte looks like. -/

namespace Sys2Proof.Machine

/-! ### The three reserved values differ -/

@[simp] theorem sot_ne_eot : SOT ≠ EOT := by decide
@[simp] theorem sot_ne_soe : SOT ≠ SOE := by decide
@[simp] theorem eot_ne_sot : EOT ≠ SOT := by decide
@[simp] theorem eot_ne_soe : EOT ≠ SOE := by decide
@[simp] theorem soe_ne_sot : SOE ≠ SOT := by decide
@[simp] theorem soe_ne_eot : SOE ≠ EOT := by decide

/-! ### Sequences -/

theorem escEncSeq_append (xs ys : List Byte) : escEncSeq (xs ++ ys) = escEncSeq xs ++ escEncSeq ys := by
  induction xs with
  | nil => rfl
  | cons v xs ih => simp [escEncSeq, ih]

theorem escDecFrom_append (p : Bool) (xs ys : List Byte) :
    escDecFrom p (xs ++ ys) =
      ((escDecFrom (escDecFrom p xs).1 ys).1, (escDecFrom p xs).2 ++ (escDecFrom (escDecFrom p xs).1 ys).2) := by
  induction xs generalizing p with
  | nil => simp [escDecFrom]
  | cons b xs ih => simp [escDecFrom, ih, List.append_assoc]

/-- The two forms of an escaped byte (R80). -/
theorem escEnc_cases (v : Byte) :
    (v = SOT ∧ escEnc v = [SOE, 0x4D#8]) ∨ (v = EOT ∧ escEnc v = [SOE, 0x4A#8]) ∨ (v = SOE ∧ escEnc v = [SOE, 0x9E#8]) ∨
    (v ≠ SOT ∧ v ≠ EOT ∧ v ≠ SOE ∧ escEnc v = [v]) := by
  by_cases h1 : v = SOT
  · subst h1; exact .inl ⟨rfl, by decide⟩
  by_cases h2 : v = EOT
  · subst h2; exact .inr (.inl ⟨rfl, by decide⟩)
  by_cases h3 : v = SOE
  · subst h3; exact .inr (.inr (.inl ⟨rfl, by decide⟩))
  · exact .inr (.inr (.inr ⟨h1, h2, h3, by simp [escEnc, reserved, h1, h2, h3]⟩))

/-- De-escaping an escaped byte with no escape pending gives the byte and leaves no escape pending. -/
theorem escDecFrom_escEnc (v : Byte) : escDecFrom false (escEnc v) = (false, [v]) := by
  rcases escEnc_cases v with ⟨rfl, h⟩ | ⟨rfl, h⟩ | ⟨rfl, h⟩ | ⟨-, -, h3, h⟩ <;> rw [h]
  · decide
  · decide
  · decide
  · simp [escDecFrom, escDecStep, h3]

/-- The length of an escaped byte (R81). -/
theorem escEnc_length (v : Byte) : (escEnc v).length = 1 + if reserved v then 1 else 0 := by
  unfold escEnc; split <;> simp_all

end Sys2Proof.Machine
end

