-- ==== Sys2Proof/Laws/State.lean ====
section
/-! SUPPORT. For each operation that updates the state, one lemma for each field (true by rfl), so that no proof unfolds a record update. -/

namespace Sys2Proof.Machine

/-! ### enterTerminal -/

@[simp] theorem enterTerminal_rxState (st : RxState) (s : State) : (enterTerminal st s).rxState = st := rfl
@[simp] theorem enterTerminal_escPending (st : RxState) (s : State) : (enterTerminal st s).escPending = s.escPending := rfl
@[simp] theorem enterTerminal_body (st : RxState) (s : State) : (enterTerminal st s).body = s.body := rfl
@[simp] theorem enterTerminal_expAddr (st : RxState) (s : State) : (enterTerminal st s).expAddr = s.expAddr := rfl
@[simp] theorem enterTerminal_expType (st : RxState) (s : State) : (enterTerminal st s).expType = s.expType := rfl
@[simp] theorem enterTerminal_expReg (st : RxState) (s : State) : (enterTerminal st s).expReg = s.expReg := rfl
@[simp] theorem enterTerminal_payload (st : RxState) (s : State) : (enterTerminal st s).payload = s.payload := rfl
@[simp] theorem enterTerminal_buffered (st : RxState) (s : State) : (enterTerminal st s).buffered = s.buffered := rfl
@[simp] theorem enterTerminal_upcoming (st : RxState) (s : State) : (enterTerminal st s).upcoming = s.upcoming := rfl
@[simp] theorem enterTerminal_sent (st : RxState) (s : State) : (enterTerminal st s).sent = s.sent := rfl
@[simp] theorem enterTerminal_chanOpen (st : RxState) (s : State) : (enterTerminal st s).chanOpen = s.chanOpen := rfl
@[simp] theorem enterTerminal_masterId (st : RxState) (s : State) : (enterTerminal st s).masterId = s.masterId := rfl
@[simp] theorem enterTerminal_loop (st : RxState) (s : State) : (enterTerminal st s).loop = s.loop := rfl
@[simp] theorem enterTerminal_pending (st : RxState) (s : State) : (enterTerminal st s).pending = s.pending := rfl
@[simp] theorem enterTerminal_result (st : RxState) (s : State) : (enterTerminal st s).result = s.result := rfl
@[simp] theorem enterTerminal_draws (st : RxState) (s : State) : (enterTerminal st s).draws = s.draws := rfl

/-! ### rxStart -/

@[simp] theorem rxStart_rxState (a t r : Byte) (s : State) : (rxStart a t r s).rxState = .huntingStart := rfl
@[simp] theorem rxStart_escPending (a t r : Byte) (s : State) : (rxStart a t r s).escPending = false := rfl
@[simp] theorem rxStart_body (a t r : Byte) (s : State) : (rxStart a t r s).body = [] := rfl
@[simp] theorem rxStart_expAddr (a t r : Byte) (s : State) : (rxStart a t r s).expAddr = a := rfl
@[simp] theorem rxStart_expType (a t r : Byte) (s : State) : (rxStart a t r s).expType = t := rfl
@[simp] theorem rxStart_expReg (a t r : Byte) (s : State) : (rxStart a t r s).expReg = r := rfl
@[simp] theorem rxStart_payload (a t r : Byte) (s : State) : (rxStart a t r s).payload = [] := rfl
@[simp] theorem rxStart_buffered (a t r : Byte) (s : State) : (rxStart a t r s).buffered = s.buffered := rfl
@[simp] theorem rxStart_upcoming (a t r : Byte) (s : State) : (rxStart a t r s).upcoming = s.upcoming := rfl
@[simp] theorem rxStart_sent (a t r : Byte) (s : State) : (rxStart a t r s).sent = s.sent := rfl
@[simp] theorem rxStart_chanOpen (a t r : Byte) (s : State) : (rxStart a t r s).chanOpen = s.chanOpen := rfl
@[simp] theorem rxStart_masterId (a t r : Byte) (s : State) : (rxStart a t r s).masterId = s.masterId := rfl
@[simp] theorem rxStart_loop (a t r : Byte) (s : State) : (rxStart a t r s).loop = s.loop := rfl
@[simp] theorem rxStart_pending (a t r : Byte) (s : State) : (rxStart a t r s).pending = s.pending := rfl
@[simp] theorem rxStart_result (a t r : Byte) (s : State) : (rxStart a t r s).result = s.result := rfl
@[simp] theorem rxStart_draws (a t r : Byte) (s : State) : (rxStart a t r s).draws = s.draws := rfl

/-! ### rxOpenFrame -/

@[simp] theorem rxOpenFrame_rxState (s : State) : (rxOpenFrame s).rxState = .huntingEnd := rfl
@[simp] theorem rxOpenFrame_escPending (s : State) : (rxOpenFrame s).escPending = false := rfl
@[simp] theorem rxOpenFrame_body (s : State) : (rxOpenFrame s).body = [] := rfl
@[simp] theorem rxOpenFrame_expAddr (s : State) : (rxOpenFrame s).expAddr = s.expAddr := rfl
@[simp] theorem rxOpenFrame_expType (s : State) : (rxOpenFrame s).expType = s.expType := rfl
@[simp] theorem rxOpenFrame_expReg (s : State) : (rxOpenFrame s).expReg = s.expReg := rfl
@[simp] theorem rxOpenFrame_payload (s : State) : (rxOpenFrame s).payload = s.payload := rfl
@[simp] theorem rxOpenFrame_buffered (s : State) : (rxOpenFrame s).buffered = s.buffered := rfl
@[simp] theorem rxOpenFrame_upcoming (s : State) : (rxOpenFrame s).upcoming = s.upcoming := rfl
@[simp] theorem rxOpenFrame_sent (s : State) : (rxOpenFrame s).sent = s.sent := rfl
@[simp] theorem rxOpenFrame_chanOpen (s : State) : (rxOpenFrame s).chanOpen = s.chanOpen := rfl
@[simp] theorem rxOpenFrame_masterId (s : State) : (rxOpenFrame s).masterId = s.masterId := rfl
@[simp] theorem rxOpenFrame_loop (s : State) : (rxOpenFrame s).loop = s.loop := rfl
@[simp] theorem rxOpenFrame_pending (s : State) : (rxOpenFrame s).pending = s.pending := rfl
@[simp] theorem rxOpenFrame_result (s : State) : (rxOpenFrame s).result = s.result := rfl
@[simp] theorem rxOpenFrame_draws (s : State) : (rxOpenFrame s).draws = s.draws := rfl

/-! ### rxDeescape -/

@[simp] theorem rxDeescape_rxState (b : Byte) (s : State) : (rxDeescape b s).rxState = s.rxState := rfl
@[simp] theorem rxDeescape_escPending (b : Byte) (s : State) : (rxDeescape b s).escPending = (escDecStep s.escPending b).1 := rfl
@[simp] theorem rxDeescape_body (b : Byte) (s : State) : (rxDeescape b s).body = s.body ++ (escDecStep s.escPending b).2.toList := rfl
@[simp] theorem rxDeescape_expAddr (b : Byte) (s : State) : (rxDeescape b s).expAddr = s.expAddr := rfl
@[simp] theorem rxDeescape_expType (b : Byte) (s : State) : (rxDeescape b s).expType = s.expType := rfl
@[simp] theorem rxDeescape_expReg (b : Byte) (s : State) : (rxDeescape b s).expReg = s.expReg := rfl
@[simp] theorem rxDeescape_payload (b : Byte) (s : State) : (rxDeescape b s).payload = s.payload := rfl
@[simp] theorem rxDeescape_buffered (b : Byte) (s : State) : (rxDeescape b s).buffered = s.buffered := rfl
@[simp] theorem rxDeescape_upcoming (b : Byte) (s : State) : (rxDeescape b s).upcoming = s.upcoming := rfl
@[simp] theorem rxDeescape_sent (b : Byte) (s : State) : (rxDeescape b s).sent = s.sent := rfl
@[simp] theorem rxDeescape_chanOpen (b : Byte) (s : State) : (rxDeescape b s).chanOpen = s.chanOpen := rfl
@[simp] theorem rxDeescape_masterId (b : Byte) (s : State) : (rxDeescape b s).masterId = s.masterId := rfl
@[simp] theorem rxDeescape_loop (b : Byte) (s : State) : (rxDeescape b s).loop = s.loop := rfl
@[simp] theorem rxDeescape_pending (b : Byte) (s : State) : (rxDeescape b s).pending = s.pending := rfl
@[simp] theorem rxDeescape_result (b : Byte) (s : State) : (rxDeescape b s).result = s.result := rfl
@[simp] theorem rxDeescape_draws (b : Byte) (s : State) : (rxDeescape b s).draws = s.draws := rfl

/-! ### chanWrite -/

@[simp] theorem chanWrite_rxState (seq : List Byte) (s : State) : (chanWrite seq s).rxState = s.rxState := rfl
@[simp] theorem chanWrite_escPending (seq : List Byte) (s : State) : (chanWrite seq s).escPending = s.escPending := rfl
@[simp] theorem chanWrite_body (seq : List Byte) (s : State) : (chanWrite seq s).body = s.body := rfl
@[simp] theorem chanWrite_expAddr (seq : List Byte) (s : State) : (chanWrite seq s).expAddr = s.expAddr := rfl
@[simp] theorem chanWrite_expType (seq : List Byte) (s : State) : (chanWrite seq s).expType = s.expType := rfl
@[simp] theorem chanWrite_expReg (seq : List Byte) (s : State) : (chanWrite seq s).expReg = s.expReg := rfl
@[simp] theorem chanWrite_payload (seq : List Byte) (s : State) : (chanWrite seq s).payload = s.payload := rfl
@[simp] theorem chanWrite_buffered (seq : List Byte) (s : State) : (chanWrite seq s).buffered = s.buffered := rfl
@[simp] theorem chanWrite_upcoming (seq : List Byte) (s : State) : (chanWrite seq s).upcoming = s.upcoming := rfl
@[simp] theorem chanWrite_sent (seq : List Byte) (s : State) : (chanWrite seq s).sent = s.sent ++ [seq] := rfl
@[simp] theorem chanWrite_chanOpen (seq : List Byte) (s : State) : (chanWrite seq s).chanOpen = s.chanOpen := rfl
@[simp] theorem chanWrite_masterId (seq : List Byte) (s : State) : (chanWrite seq s).masterId = s.masterId := rfl
@[simp] theorem chanWrite_loop (seq : List Byte) (s : State) : (chanWrite seq s).loop = s.loop := rfl
@[simp] theorem chanWrite_pending (seq : List Byte) (s : State) : (chanWrite seq s).pending = s.pending := rfl
@[simp] theorem chanWrite_result (seq : List Byte) (s : State) : (chanWrite seq s).result = s.result := rfl
@[simp] theorem chanWrite_draws (seq : List Byte) (s : State) : (chanWrite seq s).draws = s.draws := rfl

/-! ### flushInput -/

@[simp] theorem flushInput_rxState (s : State) : (flushInput s).rxState = s.rxState := rfl
@[simp] theorem flushInput_escPending (s : State) : (flushInput s).escPending = s.escPending := rfl
@[simp] theorem flushInput_body (s : State) : (flushInput s).body = s.body := rfl
@[simp] theorem flushInput_expAddr (s : State) : (flushInput s).expAddr = s.expAddr := rfl
@[simp] theorem flushInput_expType (s : State) : (flushInput s).expType = s.expType := rfl
@[simp] theorem flushInput_expReg (s : State) : (flushInput s).expReg = s.expReg := rfl
@[simp] theorem flushInput_payload (s : State) : (flushInput s).payload = s.payload := rfl
@[simp] theorem flushInput_buffered (s : State) : (flushInput s).buffered = [] := rfl
@[simp] theorem flushInput_upcoming (s : State) : (flushInput s).upcoming = s.upcoming := rfl
@[simp] theorem flushInput_sent (s : State) : (flushInput s).sent = s.sent := rfl
@[simp] theorem flushInput_chanOpen (s : State) : (flushInput s).chanOpen = s.chanOpen := rfl
@[simp] theorem flushInput_masterId (s : State) : (flushInput s).masterId = s.masterId := rfl
@[simp] theorem flushInput_loop (s : State) : (flushInput s).loop = s.loop := rfl
@[simp] theorem flushInput_pending (s : State) : (flushInput s).pending = s.pending := rfl
@[simp] theorem flushInput_result (s : State) : (flushInput s).result = s.result := rfl
@[simp] theorem flushInput_draws (s : State) : (flushInput s).draws = s.draws := rfl

/-! ### arrive -/

@[simp] theorem arrive_rxState (bs : List Byte) (s : State) : (arrive bs s).rxState = s.rxState := rfl
@[simp] theorem arrive_escPending (bs : List Byte) (s : State) : (arrive bs s).escPending = s.escPending := rfl
@[simp] theorem arrive_body (bs : List Byte) (s : State) : (arrive bs s).body = s.body := rfl
@[simp] theorem arrive_expAddr (bs : List Byte) (s : State) : (arrive bs s).expAddr = s.expAddr := rfl
@[simp] theorem arrive_expType (bs : List Byte) (s : State) : (arrive bs s).expType = s.expType := rfl
@[simp] theorem arrive_expReg (bs : List Byte) (s : State) : (arrive bs s).expReg = s.expReg := rfl
@[simp] theorem arrive_payload (bs : List Byte) (s : State) : (arrive bs s).payload = s.payload := rfl
@[simp] theorem arrive_buffered (bs : List Byte) (s : State) : (arrive bs s).buffered = s.buffered ++ bs := rfl
@[simp] theorem arrive_upcoming (bs : List Byte) (s : State) : (arrive bs s).upcoming = s.upcoming := rfl
@[simp] theorem arrive_sent (bs : List Byte) (s : State) : (arrive bs s).sent = s.sent := rfl
@[simp] theorem arrive_chanOpen (bs : List Byte) (s : State) : (arrive bs s).chanOpen = s.chanOpen := rfl
@[simp] theorem arrive_masterId (bs : List Byte) (s : State) : (arrive bs s).masterId = s.masterId := rfl
@[simp] theorem arrive_loop (bs : List Byte) (s : State) : (arrive bs s).loop = s.loop := rfl
@[simp] theorem arrive_pending (bs : List Byte) (s : State) : (arrive bs s).pending = s.pending := rfl
@[simp] theorem arrive_result (bs : List Byte) (s : State) : (arrive bs s).result = s.result := rfl
@[simp] theorem arrive_draws (bs : List Byte) (s : State) : (arrive bs s).draws = s.draws := rfl

/-! ### returns -/

@[simp] theorem returns_rxState (r : OpResult) (s : State) : (returns r s).rxState = s.rxState := rfl
@[simp] theorem returns_escPending (r : OpResult) (s : State) : (returns r s).escPending = s.escPending := rfl
@[simp] theorem returns_body (r : OpResult) (s : State) : (returns r s).body = s.body := rfl
@[simp] theorem returns_expAddr (r : OpResult) (s : State) : (returns r s).expAddr = s.expAddr := rfl
@[simp] theorem returns_expType (r : OpResult) (s : State) : (returns r s).expType = s.expType := rfl
@[simp] theorem returns_expReg (r : OpResult) (s : State) : (returns r s).expReg = s.expReg := rfl
@[simp] theorem returns_payload (r : OpResult) (s : State) : (returns r s).payload = s.payload := rfl
@[simp] theorem returns_buffered (r : OpResult) (s : State) : (returns r s).buffered = s.buffered := rfl
@[simp] theorem returns_upcoming (r : OpResult) (s : State) : (returns r s).upcoming = s.upcoming := rfl
@[simp] theorem returns_sent (r : OpResult) (s : State) : (returns r s).sent = s.sent := rfl
@[simp] theorem returns_chanOpen (r : OpResult) (s : State) : (returns r s).chanOpen = s.chanOpen := rfl
@[simp] theorem returns_masterId (r : OpResult) (s : State) : (returns r s).masterId = s.masterId := rfl
@[simp] theorem returns_loop (r : OpResult) (s : State) : (returns r s).loop = s.loop := rfl
@[simp] theorem returns_pending (r : OpResult) (s : State) : (returns r s).pending = s.pending := rfl
@[simp] theorem returns_result (r : OpResult) (s : State) : (returns r s).result = r := rfl
@[simp] theorem returns_draws (r : OpResult) (s : State) : (returns r s).draws = s.draws := rfl

/-! ### hardwareReset -/

@[simp] theorem hardwareReset_rxState (s : State) : (hardwareReset s).rxState = .huntingStart := rfl
@[simp] theorem hardwareReset_escPending (s : State) : (hardwareReset s).escPending = false := rfl
@[simp] theorem hardwareReset_body (s : State) : (hardwareReset s).body = [] := rfl
@[simp] theorem hardwareReset_expAddr (s : State) : (hardwareReset s).expAddr = Config.freeByte s.draws := rfl
@[simp] theorem hardwareReset_expType (s : State) : (hardwareReset s).expType = Config.freeByte (s.draws + 1) := rfl
@[simp] theorem hardwareReset_expReg (s : State) : (hardwareReset s).expReg = Config.freeByte (s.draws + 2) := rfl
@[simp] theorem hardwareReset_payload (s : State) : (hardwareReset s).payload = [] := rfl
@[simp] theorem hardwareReset_buffered (s : State) : (hardwareReset s).buffered = s.buffered := rfl
@[simp] theorem hardwareReset_upcoming (s : State) : (hardwareReset s).upcoming = s.upcoming := rfl
@[simp] theorem hardwareReset_sent (s : State) : (hardwareReset s).sent = s.sent := rfl
@[simp] theorem hardwareReset_chanOpen (s : State) : (hardwareReset s).chanOpen = s.chanOpen := rfl
@[simp] theorem hardwareReset_masterId (s : State) : (hardwareReset s).masterId = s.masterId := rfl
@[simp] theorem hardwareReset_loop (s : State) : (hardwareReset s).loop = none := rfl
@[simp] theorem hardwareReset_pending (s : State) : (hardwareReset s).pending = s.pending := rfl
@[simp] theorem hardwareReset_result (s : State) : (hardwareReset s).result = s.result := rfl
@[simp] theorem hardwareReset_draws (s : State) : (hardwareReset s).draws = s.draws + 3 := rfl

/-! ### settle: only `loop` and `result` can change -/

/-- What the loop's test can do: nothing, or end the loop and return to its caller. -/
theorem settle_cases (s : State) :
    (settle s = s ∧ (s.rxState.hunting = true ∨ s.loop = none)) ∨
    (∃ c, s.loop = some c ∧ s.rxState.hunting = false ∧
      settle s = { s with loop := none, result := callerResult c s }) := by
  unfold settle
  split
  · next h => exact .inl ⟨rfl, .inl h⟩
  · next h =>
    split
    · next c hc => exact .inr ⟨c, hc, by simpa using h, rfl⟩
    · next hn => exact .inl ⟨rfl, .inr hn⟩

@[simp] theorem settle_rxState (s : State) : (settle s).rxState = s.rxState := by
  rcases settle_cases s with ⟨h, -⟩ | ⟨c, -, -, h⟩ <;> rw [h]
@[simp] theorem settle_escPending (s : State) : (settle s).escPending = s.escPending := by
  rcases settle_cases s with ⟨h, -⟩ | ⟨c, -, -, h⟩ <;> rw [h]
@[simp] theorem settle_body (s : State) : (settle s).body = s.body := by
  rcases settle_cases s with ⟨h, -⟩ | ⟨c, -, -, h⟩ <;> rw [h]
@[simp] theorem settle_expAddr (s : State) : (settle s).expAddr = s.expAddr := by
  rcases settle_cases s with ⟨h, -⟩ | ⟨c, -, -, h⟩ <;> rw [h]
@[simp] theorem settle_expType (s : State) : (settle s).expType = s.expType := by
  rcases settle_cases s with ⟨h, -⟩ | ⟨c, -, -, h⟩ <;> rw [h]
@[simp] theorem settle_expReg (s : State) : (settle s).expReg = s.expReg := by
  rcases settle_cases s with ⟨h, -⟩ | ⟨c, -, -, h⟩ <;> rw [h]
@[simp] theorem settle_payload (s : State) : (settle s).payload = s.payload := by
  rcases settle_cases s with ⟨h, -⟩ | ⟨c, -, -, h⟩ <;> rw [h]
@[simp] theorem settle_buffered (s : State) : (settle s).buffered = s.buffered := by
  rcases settle_cases s with ⟨h, -⟩ | ⟨c, -, -, h⟩ <;> rw [h]
@[simp] theorem settle_upcoming (s : State) : (settle s).upcoming = s.upcoming := by
  rcases settle_cases s with ⟨h, -⟩ | ⟨c, -, -, h⟩ <;> rw [h]
@[simp] theorem settle_sent (s : State) : (settle s).sent = s.sent := by
  rcases settle_cases s with ⟨h, -⟩ | ⟨c, -, -, h⟩ <;> rw [h]
@[simp] theorem settle_chanOpen (s : State) : (settle s).chanOpen = s.chanOpen := by
  rcases settle_cases s with ⟨h, -⟩ | ⟨c, -, -, h⟩ <;> rw [h]
@[simp] theorem settle_masterId (s : State) : (settle s).masterId = s.masterId := by
  rcases settle_cases s with ⟨h, -⟩ | ⟨c, -, -, h⟩ <;> rw [h]
@[simp] theorem settle_pending (s : State) : (settle s).pending = s.pending := by
  rcases settle_cases s with ⟨h, -⟩ | ⟨c, -, -, h⟩ <;> rw [h]
@[simp] theorem settle_draws (s : State) : (settle s).draws = s.draws := by
  rcases settle_cases s with ⟨h, -⟩ | ⟨c, -, -, h⟩ <;> rw [h]

/-- While the receiver hunts the loop goes on. -/
theorem settle_hunting {s : State} (h : s.rxState.hunting = true) : settle s = s := by simp [settle, h]

/-- In a terminal state the loop ends and returns to its caller. -/
theorem settle_terminal {s : State} {c : Caller} (h : s.rxState.hunting = false) (hc : s.loop = some c) :
    settle s = { s with loop := none, result := callerResult c s } := by simp [settle, h, hc]

/-- With no loop running there is nothing to end. -/
theorem settle_idle {s : State} (h : s.loop = none) : settle s = s := by
  rcases settle_cases s with ⟨e, -⟩ | ⟨c, hc, -, -⟩
  · exact e
  · simp [h] at hc

/-- After the loop's test an operation waits only if the receiver hunts. -/
theorem settle_loop_hunts {s : State} (h : (settle s).loop ≠ none) : s.rxState.hunting = true := by
  rcases settle_cases s with ⟨e, hs | hs⟩ | ⟨c, -, -, e⟩
  · exact hs
  · rw [e] at h; exact absurd hs h
  · rw [e] at h; exact absurd rfl h

end Sys2Proof.Machine
end

