-- ==== Sys2Proof/Laws/Ops.lean ====
section
/-! SUPPORT. One lemma for each shared operation that says once what it can do; and for each instruction which shared operation
it is. -/

namespace Sys2Proof.Machine

/-! ### The states of the receiver -/

/-- Hunting is being in one of the two hunting states. -/
theorem hunting_iff (st : RxState) : st.hunting = true ↔ st = .huntingStart ∨ st = .huntingEnd := by
  cases st <;> simp [RxState.hunting]

@[simp] theorem huntingStart_hunting : RxState.huntingStart.hunting = true := rfl
@[simp] theorem huntingEnd_hunting : RxState.huntingEnd.hunting = true := rfl

/-! ### The de-escaping step -/

@[simp] theorem escDecStep_pending (b : Byte) : escDecStep true b = (false, some (b - ECC)) := by simp [escDecStep]

@[simp] theorem escDecStep_marker : escDecStep false SOE = (true, none) := by simp [escDecStep]

theorem escDecStep_plain {b : Byte} (h : b ≠ SOE) : escDecStep false b = (false, some b) := by
  simp [escDecStep, h]

/-! ### RX.CLOSE -/

/-- The four ways a frame closes, with the conditions in the order they are tested (R107, R138). -/
theorem rxClose_cases (s : State) :
    (s.body.length < 5 ∧ rxClose s = { s with rxState := .tooShort }) ∨
    (5 ≤ s.body.length ∧ crcCompute s.body ≠ 0x0000#16 ∧ rxClose s = { s with rxState := .checksumInvalid }) ∨
    (5 ≤ s.body.length ∧ crcCompute s.body = 0x0000#16 ∧
      ¬(s.body[0]? = some s.expAddr ∧ s.body[1]? = some s.expType ∧ s.body[2]? = some s.expReg) ∧
      rxClose s = { s with rxState := .contentMismatch }) ∨
    (5 ≤ s.body.length ∧ crcCompute s.body = 0x0000#16 ∧
      s.body[0]? = some s.expAddr ∧ s.body[1]? = some s.expType ∧ s.body[2]? = some s.expReg ∧
      rxClose s = { s with payload := (s.body.take (s.body.length - 2)).drop 3, rxState := .ready }) := by
  unfold rxClose rxCloseWith closeOutcome
  by_cases h5 : s.body.length < 5
  · left; simp [layout, h5, enterTerminal]
  have h5' : 5 ≤ s.body.length := by omega
  by_cases hc : crcCompute s.body ≠ 0x0000#16
  · right; left; simp [layout, h5, crcVerify, hc, enterTerminal, h5']
  have hc : crcCompute s.body = 0x0000#16 := Classical.not_not.1 hc
  by_cases hm : headerMatches layout s
  · right; right; right
    have hm' := hm
    simp only [headerMatches, layout, Bool.and_eq_true, beq_iff_eq] at hm'
    exact ⟨h5', hc, hm'.1.1, hm'.1.2, hm'.2, by simp [layout, h5, crcVerify, hc] at hm ⊢; simp [hm, enterTerminal, rxPayload, slice]⟩
  · right; right; left
    have hm' := hm
    simp only [headerMatches, layout, Bool.and_eq_true, beq_iff_eq, not_and] at hm'
    refine ⟨h5', hc, fun h => hm' ⟨h.1, h.2.1⟩ h.2.2, ?_⟩
    simp [layout, h5, crcVerify, hc] at hm ⊢; simp [hm, enterTerminal]

/-- Closing a frame always ends the attempt. -/
theorem rxClose_terminal (s : State) : (rxClose s).rxState.hunting = false := by
  rcases rxClose_cases s with ⟨-, h⟩ | ⟨-, -, h⟩ | ⟨-, -, -, h⟩ | ⟨-, -, -, -, -, h⟩ <;> rw [h] <;> rfl

/-- Closing a frame writes `rx_state` and `payload` alone. -/
theorem rxClose_frame (s : State) :
    rxClose s = { s with rxState := (rxClose s).rxState, payload := (rxClose s).payload } := by
  rcases rxClose_cases s with ⟨-, h⟩ | ⟨-, -, h⟩ | ⟨-, -, -, h⟩ | ⟨-, -, -, -, -, h⟩ <;> rw [h]

/-! ### RX.BYTE, RX.FAIL and RX.STEP -/

/-- All that RX.BYTE can do when it answers a next state. -/
theorem rxByte_next {b : Byte} {s t : State} (h : rxByte b s = .next t) :
    (s.rxState = .huntingStart ∧ b = SOT ∧ t = rxOpenFrame s) ∨
    (s.rxState = .huntingStart ∧ b ≠ SOT ∧ t = s) ∨
    (s.rxState = .huntingEnd ∧ b = EOT ∧ t = rxClose s) ∨
    (s.rxState = .huntingEnd ∧ b ≠ EOT ∧ t = rxDeescape b s) := by
  unfold rxByte at h
  split at h <;> simp_all only [reduceCtorEq, Host.Outcome.next.injEq, false_and, or_false, false_or, true_and]
  · by_cases hb : b = SOT <;> simp_all [rxDiscard]
  · by_cases hb : b = EOT <;> simp_all

theorem rxByte_start {b : Byte} {s : State} (h : s.rxState = .huntingStart) :
    rxByte b s = .next (if b = SOT then rxOpenFrame s else s) := by simp [rxByte, h, rxDiscard]

theorem rxByte_end {b : Byte} {s : State} (h : s.rxState = .huntingEnd) :
    rxByte b s = .next (if b = EOT then rxClose s else rxDeescape b s) := by simp [rxByte, h]

/-- A terminal state has no step (R103). -/
theorem rxByte_terminal {b : Byte} {s : State} (h : s.rxState.hunting = false) : rxByte b s = .fault .noStep := by
  unfold rxByte; split <;> simp_all

theorem rxFail_hunting {st : RxState} {s : State} (h : s.rxState.hunting = true) :
    rxFail st s = .next (enterTerminal st s) := by simp [rxFail, h]

theorem rxFail_terminal {st : RxState} {s : State} (h : s.rxState.hunting = false) : rxFail st s = .fault .noStep := by
  simp [rxFail, h]

/-- All that RX.FAIL can do when it answers a next state. -/
theorem rxFail_next {st : RxState} {s t : State} (h : rxFail st s = .next t) :
    s.rxState.hunting = true ∧ t = enterTerminal st s := by
  unfold rxFail at h; split at h <;> simp_all

/-- While the receiver hunts every read outcome has a step. -/
theorem rxStep_hunting (o : ReadOutcome) {s : State} (h : s.rxState.hunting = true) : ∃ t, rxStep o s = .next t := by
  cases o with
  | byte b =>
    rcases (hunting_iff _).1 h with h | h
    · exact ⟨_, rxByte_start h⟩
    · exact ⟨_, rxByte_end h⟩
  | timeout => exact ⟨_, rxFail_hunting h⟩
  | connLost => exact ⟨_, rxFail_hunting h⟩

/-! ### The receiver does not look at the channel -/

/-- RX.STEP writes four fields of the receiver alone. -/
theorem rxStep_frame {o : ReadOutcome} {s t : State} (h : rxStep o s = .next t) :
    t = { s with rxState := t.rxState, escPending := t.escPending, body := t.body, payload := t.payload } := by
  cases o with
  | byte b =>
    rcases rxByte_next h with ⟨-, -, rfl⟩ | ⟨-, -, rfl⟩ | ⟨-, -, rfl⟩ | ⟨-, -, rfl⟩
    · rfl
    · rfl
    · rw [rxClose_frame]
    · rfl
  | timeout => obtain ⟨-, rfl⟩ := rxFail_next h; rfl
  | connLost => obtain ⟨-, rfl⟩ := rxFail_next h; rfl

/-- RX.CLOSE gives the same whatever the channel's lists hold. -/
theorem rxClose_channel (s : State) (b : List Byte) (u : List ReadOutcome) :
    rxClose { s with buffered := b, upcoming := u } = { rxClose s with buffered := b, upcoming := u } := by
  unfold rxClose rxCloseWith
  have e : closeOutcome layout { s with buffered := b, upcoming := u } = closeOutcome layout s := rfl
  rw [e]
  cases closeOutcome layout s <;> rfl

/-- RX.STEP gives the same whatever the channel's lists hold (R35: there is no loopback). -/
theorem rxStep_channel {o : ReadOutcome} {s t : State} (h : rxStep o s = .next t) (b : List Byte) (u : List ReadOutcome) :
    rxStep o { s with buffered := b, upcoming := u } = .next { t with buffered := b, upcoming := u } := by
  cases o with
  | byte x =>
    rcases rxByte_next h with ⟨hs, hx, rfl⟩ | ⟨hs, hx, rfl⟩ | ⟨hs, hx, rfl⟩ | ⟨hs, hx, rfl⟩
    · exact (rxByte_start (s := { s with buffered := b, upcoming := u }) hs).trans (by rw [if_pos hx]; rfl)
    · exact (rxByte_start (s := { t with buffered := b, upcoming := u }) hs).trans (by rw [if_neg hx])
    · exact (rxByte_end (s := { s with buffered := b, upcoming := u }) hs).trans (by rw [if_pos hx, rxClose_channel])
    · exact (rxByte_end (s := { s with buffered := b, upcoming := u }) hs).trans (by rw [if_neg hx]; rfl)
  | timeout => obtain ⟨hh, rfl⟩ := rxFail_next h; exact rxFail_hunting (s := { s with buffered := b, upcoming := u }) hh
  | connLost => obtain ⟨hh, rfl⟩ := rxFail_next h; exact rxFail_hunting (s := { s with buffered := b, upcoming := u }) hh

/-! ### Several bytes -/

theorem rxBytes_append (xs ys : List Byte) {s t : State} (h : rxBytes xs s = .next t) :
    rxBytes (xs ++ ys) s = rxBytes ys t := by
  induction xs generalizing s with
  | nil => simp [rxBytes] at h; simp [h]
  | cons b xs ih =>
    simp only [rxBytes, List.cons_append] at h ⊢
    split at h <;> simp_all

/-- What holds of the first state and is kept by each byte holds of the last. -/
theorem rxBytes_keeps {P : State → Prop} (hP : ∀ b s t, P s → rxByte b s = .next t → P t) :
    ∀ (bs : List Byte) {s t : State}, P s → rxBytes bs s = .next t → P t
  | [], s, t, hs, h => by simp [rxBytes] at h; exact h ▸ hs
  | b :: bs, s, t, hs, h => by
    simp only [rxBytes] at h
    split at h
    · next u hu => exact rxBytes_keeps hP bs (hP b s u hs hu) h
    · simp at h
    · simp at h

/-- Arriving bytes write four fields of the receiver alone. -/
theorem rxBytes_frame {bs : List Byte} {s t : State} (h : rxBytes bs s = .next t) :
    t = { s with rxState := t.rxState, escPending := t.escPending, body := t.body, payload := t.payload } := by
  refine rxBytes_keeps
    (P := fun t => t = { s with rxState := t.rxState, escPending := t.escPending, body := t.body, payload := t.payload })
    ?_ bs rfl h
  intro b u v hu hv
  have hv' := rxStep_frame (o := .byte b) hv
  exact hv'.trans (by rw [hu])

/-- A receiver in a terminal state stays as it is, whatever bytes are offered to it. -/
theorem rxBytes_terminal {bs : List Byte} {s t : State} (hh : s.rxState.hunting = false) (h : rxBytes bs s = .next t) :
    t = s := by
  cases bs with
  | nil => simp [rxBytes] at h; exact h.symm
  | cons b bs => simp [rxBytes, rxByte_terminal hh] at h

/-- Once a frame is open, arriving bytes never lead back to hunting for SOT. -/
theorem rxBytes_ne_start {bs : List Byte} {s t : State} (hs : s.rxState ≠ .huntingStart) (h : rxBytes bs s = .next t) :
    t.rxState ≠ .huntingStart := by
  refine rxBytes_keeps (P := fun s => s.rxState ≠ .huntingStart) ?_ bs hs h
  intro b u v hu hv
  rcases rxByte_next hv with ⟨h1, -, rfl⟩ | ⟨-, -, rfl⟩ | ⟨-, -, rfl⟩ | ⟨h1, -, rfl⟩
  · exact absurd h1 hu
  · exact hu
  · intro hn; have := rxClose_terminal u; rw [hn] at this; simp at this
  · simp [h1]

/-- Inside a frame, bytes without an EOT are de-escaped into the body. -/
theorem rxBytes_inFrame (bs : List Byte) {s : State} (hs : s.rxState = .huntingEnd) (h : EOT ∉ bs) :
    rxBytes bs s = .next { s with
      escPending := (escDecFrom s.escPending bs).1, body := s.body ++ (escDecFrom s.escPending bs).2 } := by
  induction bs generalizing s with
  | nil => simp [rxBytes, escDecFrom]
  | cons b bs ih =>
    have hb : b ≠ EOT := fun e => h (by simp [e])
    simp only [rxBytes, rxByte_end hs, if_neg hb]
    rw [ih (s := rxDeescape b s) hs (fun hm => h (by simp [hm]))]
    simp [rxDeescape, escDecFrom, List.append_assoc]

/-! ### The channel -/

/-- The three places a read is answered from. -/
theorem chanRead_cases (s : State) :
    (∃ b bs, s.buffered = b :: bs ∧ chanRead s = (.byte b, { s with buffered := bs })) ∨
    (∃ o os, s.buffered = [] ∧ s.upcoming = o :: os ∧ chanRead s = (o, { s with upcoming := os })) ∨
    (s.buffered = [] ∧ s.upcoming = [] ∧
      chanRead s = (Config.freeRead s.draws, { s with draws := s.draws + 1 })) := by
  unfold chanRead
  split
  · next b bs h => exact .inl ⟨b, bs, h, rfl⟩
  · next h =>
    split
    · next o os ho => exact .inr (.inl ⟨o, os, h, ho, rfl⟩)
    · next ho => exact .inr (.inr ⟨h, ho, rfl⟩)

/-- A read changes the channel's lists and the draw counter alone. -/
theorem chanRead_frame (s : State) :
    (chanRead s).2 = { s with
      buffered := (chanRead s).2.buffered, upcoming := (chanRead s).2.upcoming, draws := (chanRead s).2.draws } := by
  rcases chanRead_cases s with ⟨b, bs, -, h⟩ | ⟨o, os, -, -, h⟩ | ⟨-, -, h⟩ <;> rw [h]

@[simp] theorem chanRead_rxState (s : State) : (chanRead s).2.rxState = s.rxState := by rw [chanRead_frame]
@[simp] theorem chanRead_escPending (s : State) : (chanRead s).2.escPending = s.escPending := by rw [chanRead_frame]
@[simp] theorem chanRead_body (s : State) : (chanRead s).2.body = s.body := by rw [chanRead_frame]
@[simp] theorem chanRead_expAddr (s : State) : (chanRead s).2.expAddr = s.expAddr := by rw [chanRead_frame]
@[simp] theorem chanRead_expType (s : State) : (chanRead s).2.expType = s.expType := by rw [chanRead_frame]
@[simp] theorem chanRead_expReg (s : State) : (chanRead s).2.expReg = s.expReg := by rw [chanRead_frame]
@[simp] theorem chanRead_payload (s : State) : (chanRead s).2.payload = s.payload := by rw [chanRead_frame]
@[simp] theorem chanRead_loop (s : State) : (chanRead s).2.loop = s.loop := by rw [chanRead_frame]

/-! ### Which shared operation an instruction is -/

/-- An instruction that is the arrival of one byte is RX.BYTE of that byte. -/
theorem exec_arrivalByte {i : Instr} {b : Byte} (h : arrivalByte i = some b) (s : State) : exec i s = rxByte b s := by
  cases i <;> simp only [arrivalByte, Option.some.injEq, reduceCtorEq] at h <;> subst h <;> rfl

/-- The event a read outcome is, run, is RX.STEP of it. -/
theorem exec_decodeOutcome (o : ReadOutcome) (s : State) : exec (decodeOutcome o) s = rxStep o s := by
  cases o with
  | byte b =>
    simp only [decodeOutcome, decodeWire, rxStep]
    split
    · next h => subst h; rfl
    split
    · next h => subst h; rfl
    split
    · next h => subst h; rfl
    · rfl
  | timeout => rfl
  | connLost => rfl

/-- The bytes whose arrival an instruction is: one, two, or a frame. -/
def arrivalBytes : Instr → Option (List Byte)
  | .escSot => some [SOE, 0x4D#8]
  | .escEot => some [SOE, 0x4A#8]
  | .escSoe => some [SOE, 0x9E#8]
  | .escAny b => some [SOE, b]
  | .bodyRx addr ty reg payload hi lo => some (wireFrame (rxBody addr ty reg payload hi lo))
  | i => (arrivalByte i).map ([·])

theorem rxBytes_one (b : Byte) (s : State) : rxBytes [b] s = rxByte b s := by
  simp only [rxBytes]; split <;> simp_all

/-- All that an instruction can do when it answers a next state: it leaves the block alone, or is the arrival of bytes, or a
read failure, or starts an attempt or resets, or begins the loop. -/
theorem exec_next {i : Instr} {s t : State} (h : exec i s = .next t) :
    (leavesReceiver i = true ∧ t = { s with result := t.result, sent := t.sent }) ∨
    (∃ bs, arrivalBytes i = some bs ∧ rxBytes bs s = .next t) ∨
    (i = .rxFailTimeout ∧ rxFail .readTimeout s = .next t) ∨
    (i = .rxFailConnLost ∧ rxFail .transportLost s = .next t) ∨
    (∃ a ty r, i = .rxStart a ty r ∧ t = rxStart a ty r s) ∨
    (∃ d r p, i = .writeRegister d r p ∧ t = transaction .writeRegister d r 0x05#8 p 0x03#8 s) ∨
    (∃ d r, i = .readRegister d r ∧ t = transaction .readRegister d r 0x04#8 [] 0x08#8 s) ∨
    (∃ d r o p n, i = .request d r o p n ∧ t = transaction .request d r o p n s) ∨
    (i = .reset ∧ t = hardwareReset s) ∨
    (i = .rxRun ∧ t = beginLoop .run s) := by
  cases hb : arrivalBytes i with
  | some bs =>
    refine .inr (.inl ⟨bs, rfl, ?_⟩)
    cases hi : arrivalByte i with
    | some b =>
      rw [exec_arrivalByte hi] at h
      have : bs = [b] := by cases i <;> simp_all [arrivalBytes, arrivalByte]
      rw [this, rxBytes_one, h]
    | none =>
      cases i <;> simp only [arrivalBytes, arrivalByte, Option.map_none, Option.some.injEq, reduceCtorEq] at hb hi <;>
        subst hb <;> exact h
  | none =>
    cases i <;> simp only [arrivalBytes, arrivalByte, Option.map_some, Option.map_none, reduceCtorEq] at hb
    case rxStart => injection h with h; exact .inr (.inr (.inr (.inr (.inl ⟨_, _, _, rfl, h.symm⟩))))
    case rxFailTimeout => exact .inr (.inr (.inl ⟨rfl, h⟩))
    case rxFailConnLost => exact .inr (.inr (.inr (.inl ⟨rfl, h⟩)))
    case rxRun => injection h with h; simp [h]
    case request => injection h with h; exact .inr (.inr (.inr (.inr (.inr (.inr (.inr (.inl ⟨_, _, _, _, _, rfl, h.symm⟩)))))))
    case readRegister => injection h with h; exact .inr (.inr (.inr (.inr (.inr (.inr (.inl ⟨_, _, rfl, h.symm⟩))))))
    case writeRegister => injection h with h; exact .inr (.inr (.inr (.inr (.inr (.inl ⟨_, _, _, rfl, h.symm⟩)))))
    case reset => injection h with h; simp [h]
    all_goals exact .inl ⟨rfl, by injection h with h; subst h; rfl⟩

/-- Where a transaction leaves the machine: in `HuntingStart`, waiting in the loop (R153 steps 1 to 5). -/
theorem transaction_eq (c : Caller) (dest reg typeOut : Byte) (p : List Byte) (typeIn : Byte) (s : State) :
    transaction c dest reg typeOut p typeIn s = { s with
      buffered := [], sent := s.sent ++ [encFrame dest s.masterId typeOut reg p]
      rxState := .huntingStart, escPending := false, body := [], payload := []
      expAddr := dest, expType := typeIn, expReg := reg, loop := some c } := rfl

/-- The loop's test writes `loop` and `result` alone. -/
theorem settle_frame (s : State) : settle s = { s with loop := (settle s).loop, result := (settle s).result } := by
  unfold settle
  split
  · rfl
  · split <;> rfl

/-- Beginning the loop writes `loop` and `result` alone. -/
theorem beginLoop_frame (c : Caller) (s : State) :
    beginLoop c s = { s with loop := (beginLoop c s).loop, result := (beginLoop c s).result } :=
  settle_frame { s with loop := some c }

/-- One step of a running loop: a read, RX.STEP of its answer, the loop's test. -/
theorem step_loop {s t : State} {c : Caller} (hc : s.loop = some c) (hh : s.rxState.hunting = true)
    (h : rxStep (chanRead s).1 (chanRead s).2 = .next t) : step s = .next (settle t) := by
  simp only [step, hc, loopStep, hh, if_true, loopTurn, exec_decodeOutcome, h]

end Sys2Proof.Machine
end

