-- ==== Sys2Proof/Laws/PerInstr.lean ====
section
/-! SUPPORT. Facts that hold of every instruction, constructor by constructor: how many bytes an encoding has (spec 30_encoding.md
R51 to R58; the operations have none, D1). -/

namespace Sys2Proof.Laws.EncodedLength

open Machine

/-- The numbers of bytes the items of a format can have: R51, R56, R58, R53, R54. -/
def fits : Format → Nat → Bool
  | .wireByte, n => n == 1
  | .escapePair, n => n == 2
  | .typeCode, n => n == 1
  | .telegram, n => decide (8 ≤ n)
  | .body, n => decide (5 ≤ n)
  | .operation, _ => false

/-- An encoding has as many bytes as its format allows, and an operation has no encoding. -/
def Statement (i : Instr) : Prop := ∀ bs, encode i = some bs → fits (formatOf i) bs.length = true

/-- Escaping never shortens (R81). -/
theorem le_escEncSeq_length (y : List Byte) : y.length ≤ (escEncSeq y).length := by
  induction y with
  | nil => exact Nat.le_refl _
  | cons v y ih => simp only [escEncSeq, List.length_append, escEnc_length, List.length_cons]; omega

/-- An instruction whose encoding is known has a length that fits if that encoding has. -/
theorem of_encoding {i : Instr} {bs : List Byte} (h : encode i = some bs) (hl : fits (formatOf i) bs.length = true) :
    Statement i := by
  intro cs hc
  rw [h] at hc
  exact Option.some.inj hc ▸ hl

/-- An instruction without an encoding. -/
theorem of_none {i : Instr} (h : encode i = none) : Statement i := by
  intro cs hc
  rw [h] at hc
  cases hc

theorem sot : Statement (.sot) := of_encoding rfl rfl
theorem eot : Statement (.eot) := of_encoding rfl rfl
theorem soe : Statement (.soe) := of_encoding rfl rfl
theorem data (v : Byte) : Statement (.data v) := of_encoding rfl rfl
theorem escSot : Statement (.escSot) := of_encoding rfl rfl
theorem escEot : Statement (.escEot) := of_encoding rfl rfl
theorem escSoe : Statement (.escSoe) := of_encoding rfl rfl
theorem escAny (b : Byte) : Statement (.escAny b) := of_encoding rfl rfl
theorem typeNack : Statement (.typeNack) := of_encoding rfl rfl
theorem typeCrc : Statement (.typeCrc) := of_encoding rfl rfl
theorem typeBusy : Statement (.typeBusy) := of_encoding rfl rfl
theorem typeAck : Statement (.typeAck) := of_encoding rfl rfl
theorem typeRdcmd : Statement (.typeRdcmd) := of_encoding rfl rfl
theorem typeWrcmd : Statement (.typeWrcmd) := of_encoding rfl rfl
theorem typeWrset : Statement (.typeWrset) := of_encoding rfl rfl
theorem typeWrclr : Statement (.typeWrclr) := of_encoding rfl rfl
theorem typeDatagram : Statement (.typeDatagram) := of_encoding rfl rfl
theorem typeWrtgl : Statement (.typeWrtgl) := of_encoding rfl rfl
theorem typeNone : Statement (.typeNone) := of_encoding rfl rfl
theorem typeUnlisted (t : Byte) : Statement (.typeUnlisted t) := of_encoding rfl rfl
theorem telegramTx (dest src ty reg : Byte) (payload : List Byte) (crcHi crcLo : Byte) : Statement (.telegramTx dest src ty reg payload crcHi crcLo) := by
  refine of_encoding rfl (decide_eq_true ?_)
  have h := le_escEncSeq_length (txContent dest src ty reg payload ++ [crcHi, crcLo])
  simp only [wireFrame, txContent_eq, List.length_append, List.length_cons, List.length_nil] at h ⊢
  omega
theorem bodyRx (addr ty reg : Byte) (payload : List Byte) (crcHi crcLo : Byte) : Statement (.bodyRx addr ty reg payload crcHi crcLo) := by
  refine of_encoding rfl (decide_eq_true ?_)
  simp only [rxBody_eq, List.length_append, List.length_cons, List.length_nil]
  omega
theorem crcStep (c : Word16) (b : Byte) : Statement (.crcStep c b) := of_none rfl
theorem crcCompute (bytes : List Byte) : Statement (.crcCompute bytes) := of_none rfl
theorem crcVerify (bytes : List Byte) : Statement (.crcVerify bytes) := of_none rfl
theorem escEnc (v : Byte) : Statement (.escEnc v) := of_none rfl
theorem escEncSeq (bytes : List Byte) : Statement (.escEncSeq bytes) := of_none rfl
theorem escDecStep (p : Bool) (b : Byte) : Statement (.escDecStep p b) := of_none rfl
theorem escDecSeq (bytes : List Byte) : Statement (.escDecSeq bytes) := of_none rfl
theorem encFrame (dest src ty reg : Byte) (payload : List Byte) : Statement (.encFrame dest src ty reg payload) := of_none rfl
theorem rxStart (addr ty reg : Byte) : Statement (.rxStart addr ty reg) := of_none rfl
theorem rxHuntDiscard (b : Byte) : Statement (.rxHuntDiscard b) := of_none rfl
theorem rxHuntSot : Statement (.rxHuntSot) := of_none rfl
theorem rxByteEot : Statement (.rxByteEot) := of_none rfl
theorem rxByteSoe : Statement (.rxByteSoe) := of_none rfl
theorem rxByteData (b : Byte) : Statement (.rxByteData b) := of_none rfl
theorem rxByteEscData (b : Byte) : Statement (.rxByteEscData b) := of_none rfl
theorem rxCloseTooShort : Statement (.rxCloseTooShort) := of_none rfl
theorem rxCloseChecksumInvalid : Statement (.rxCloseChecksumInvalid) := of_none rfl
theorem rxCloseContentMismatch : Statement (.rxCloseContentMismatch) := of_none rfl
theorem rxCloseReady : Statement (.rxCloseReady) := of_none rfl
theorem rxFailTimeout : Statement (.rxFailTimeout) := of_none rfl
theorem rxFailConnLost : Statement (.rxFailConnLost) := of_none rfl
theorem rxRun : Statement (.rxRun) := of_none rfl
theorem request (dest reg typeOut : Byte) (payloadOut : List Byte) (typeIn : Byte) : Statement (.request dest reg typeOut payloadOut typeIn) := of_none rfl
theorem readRegister (dest reg : Byte) : Statement (.readRegister dest reg) := of_none rfl
theorem writeRegister (dest reg : Byte) (payload : List Byte) : Statement (.writeRegister dest reg payload) := of_none rfl
theorem reset : Statement (.reset) := of_none rfl

end Sys2Proof.Laws.EncodedLength
end

