-- ==== Sys2Proof/Tests/Slice0.lean ====
section
/-! SUPPORT. Tests. Every expected value is from spec/: the words from the encodings of 30_encoding.md, the results from the vectors and
programs of 95_test_vectors.md (their ids stand in the comments), or worked out by hand from the rule that is cited. -/

namespace Sys2Proof.Tests

open Machine

set_option maxRecDepth 8000

/-! ### Helpers -/

/-- What an instruction leaves in the receiver. -/
structure Rx where
  st : RxState
  p : Bool
  body : List Byte
  payload : List Byte
  deriving DecidableEq, Repr

/-- Bytes from numbers. -/
def hex (ns : List Nat) : List Byte := ns.map (BitVec.ofNat 8)

/-- The receiver in a given state, expecting (02, 08, 10) as in 95_test_vectors.md 2.4. -/
def at' (st : RxState) (p : Bool) (body : List Nat) : State :=
  { State.reset with rxState := st, escPending := p, body := hex body, expAddr := 2#8, expType := 8#8, expReg := 0x10#8 }

/-- The receiver's state and payload after an instruction; nothing where it stops. -/
def after (i : Instr) (s : State) : Option Rx :=
  match exec i s with
  | .next t => some ⟨t.rxState, t.escPending, t.body, t.payload⟩
  | .fault _ => none
  | .refused _ => none

/-- The value an instruction returns, run after reset; nothing where it stops. -/
def returned (i : Instr) : Option OpResult :=
  match exec i State.reset with
  | .next t => some t.result
  | .fault _ => none
  | .refused _ => none

/-- The instruction decoded from the bytes of a format. -/
def dec (f : Format) (ns : List Nat) : Option Instr := (decode f (hex ns)).toOption

/-! ### WellFormed: one ill-formed term for each check, refused; its well-formed neighbours are not -/

theorem test_wf_data : wellFormed (.data 0x0D#8) = false ∧ wellFormed (.data 0x0A#8) = false ∧
    wellFormed (.data 0x5E#8) = false ∧ wellFormed (.data 0x0C#8) = true := by decide
theorem test_wf_escAny_of_a_named_pair : wellFormed (.escAny 0x4D#8) = false ∧ wellFormed (.escAny 0x4A#8) = false ∧
    wellFormed (.escAny 0x9E#8) = false ∧ wellFormed (.escAny 0x5E#8) = true := by decide
theorem test_wf_escAny_of_eot : wellFormed (.escAny 0x0A#8) = false ∧ wellFormed (.escAny 0x0D#8) = true := by decide
theorem test_wf_typeUnlisted : wellFormed (.typeUnlisted 0x09#8) = false ∧ wellFormed (.typeUnlisted 0xFF#8) = false ∧
    wellFormed (.typeUnlisted 0x0A#8) = true ∧ wellFormed (.typeUnlisted 0xFE#8) = true := by decide
/-- RDCMD carries no payload (R59, R91): refused with the checksum of F1 and with that of the content (0xF924, by R71). -/
theorem test_wf_telegramTx_payload :
    wellFormed (.telegramTx 2#8 1#8 4#8 0x10#8 [0xAA#8] 0x04#8 0xAD#8) = false ∧
    wellFormed (.telegramTx 2#8 1#8 4#8 0x10#8 [0xAA#8] 0xF9#8 0x24#8) = false := by decide
/-- F1 with the low checksum byte off by one, V33. -/
theorem test_wf_telegramTx_checksum : wellFormed (.telegramTx 2#8 1#8 4#8 0x10#8 [] 0x04#8 0xAC#8) = false ∧
    wellFormed (.telegramTx 2#8 1#8 4#8 0x10#8 [] 0x04#8 0xAD#8) = true := by decide
theorem test_wf_rxHuntDiscard : wellFormed (.rxHuntDiscard 0x0D#8) = false ∧ wellFormed (.rxHuntDiscard 0x0A#8) = true := by
  decide
theorem test_wf_rxByteData : wellFormed (.rxByteData 0x0A#8) = false ∧ wellFormed (.rxByteData 0x5E#8) = false ∧
    wellFormed (.rxByteData 0x0D#8) = true := by decide
theorem test_wf_rxByteEscData : wellFormed (.rxByteEscData 0x0A#8) = false ∧ wellFormed (.rxByteEscData 0x5E#8) = true := by
  decide
/-- The fetch refuses an ill-formed operation and bytes that are not of their format (R61: 0x5E 0x0A is no pair). -/
theorem test_step_refuses_what_is_not_an_instruction :
    step { State.reset with pending := [.op (.data 0x0D#8)] } = .refused .illFormed ∧
    step { State.reset with pending := [.encoded .escapePair [0x5E#8, 0x0A#8]] } = .refused (.undecodable .notAPair) ∧
    step { State.reset with pending := [.encoded .operation [0x00#8]] } = .refused (.undecodable .noEncoding) := ⟨rfl, rfl, rfl⟩

/-! ### Decode: every row that has an encoding, by a word written out from it -/

/-- R51. -/
theorem test_decode_wire_bytes :
    decodeTableWord 8 0b00001101 = some .sot ∧ decodeTableWord 8 0b00001010 = some .eot ∧
    decodeTableWord 8 0b01011110 = some .soe ∧ decodeTableWord 8 0b01000001 = some (.data 0x41#8) ∧
    dec .wireByte [0x00] = some (.data 0x00#8) ∧ dec .wireByte [0xFF] = some (.data 0xFF#8) := by decide
/-- R56, R61: the first byte on the wire is 0x5E. -/
theorem test_decode_pairs :
    decodeTableWord 16 0b0101111001001101 = some .escSot ∧ decodeTableWord 16 0b0101111001001010 = some .escEot ∧
    decodeTableWord 16 0b0101111010011110 = some .escSoe ∧ decodeTableWord 16 0b0101111001000001 = some (.escAny 0x41#8) ∧
    decodeTableWord 16 0b0100110101011110 = none ∧ decodeTableWord 16 0b0101111000001010 = none := by decide
/-- R58. -/
theorem test_decode_type_codes :
    decodeTableWord 8 0b00000000 = some .typeNack ∧ decodeTableWord 8 0b00000001 = some .typeCrc ∧
    decodeTableWord 8 0b00000010 = some .typeBusy ∧ decodeTableWord 8 0b00000011 = some .typeAck ∧
    decodeTableWord 8 0b00000100 = some .typeRdcmd ∧ decodeTableWord 8 0b00000101 = some .typeWrcmd ∧
    decodeTableWord 8 0b00000110 = some .typeWrset ∧ decodeTableWord 8 0b00000111 = some .typeWrclr ∧
    decodeTableWord 8 0b00001000 = some .typeDatagram ∧ decodeTableWord 8 0b00001001 = some .typeWrtgl ∧
    decodeTableWord 8 0b11111111 = some .typeNone ∧ dec .typeCode [0x0A] = some (.typeUnlisted 0x0A#8) ∧
    dec .typeCode [0xFE] = some (.typeUnlisted 0xFE#8) := by decide
/-- R52: F1, and F3, whose payload byte 0x0D is escaped. -/
theorem test_decode_telegram :
    dec .telegram [0x0D, 0x02, 0x01, 0x04, 0x10, 0x04, 0xAD, 0x0A] =
      some (.telegramTx 2#8 1#8 4#8 0x10#8 [] 0x04#8 0xAD#8) ∧
    dec .telegram [0x0D, 0x02, 0x01, 0x05, 0x10, 0x5E, 0x4D, 0x0B, 0x19, 0x0A] =
      some (.telegramTx 2#8 1#8 5#8 0x10#8 [0x0D#8] 0x0B#8 0x19#8) := by decide
/-- R52, R86: no EOT, an escape that no encoder sends, a checksum byte off by one. -/
theorem test_decode_telegram_refused :
    dec .telegram [0x0D, 0x02, 0x01, 0x04, 0x10, 0x04, 0xAD] = none ∧
    dec .telegram [0x0D, 0x5E, 0x42, 0x01, 0x04, 0x10, 0x04, 0xAD, 0x0A] = none ∧
    dec .telegram [0x0D, 0x02, 0x01, 0x04, 0x10, 0x04, 0xAC, 0x0A] = none := by decide
/-- R54: the body of S11, and the shortest body, S25. -/
theorem test_decode_body :
    dec .body [0x02, 0x08, 0x10, 0x12, 0x34, 0x91, 0xE5] =
      some (.bodyRx 2#8 8#8 0x10#8 [0x12#8, 0x34#8] 0x91#8 0xE5#8) ∧
    dec .body [0x02, 0x08, 0x40, 0xAF, 0x0D] = some (.bodyRx 2#8 8#8 0x40#8 [] 0xAF#8 0x0D#8) ∧
    dec .body [0x02, 0x08, 0x10, 0x91] = none := by decide
/-- The encoder on the same telegrams, F3 and F12. -/
theorem test_encode_telegram :
    encode (.telegramTx 2#8 1#8 5#8 0x10#8 [0x0D#8] 0x0B#8 0x19#8) =
      some (hex [0x0D, 0x02, 0x01, 0x05, 0x10, 0x5E, 0x4D, 0x0B, 0x19, 0x0A]) ∧
    encode (.telegramTx 2#8 1#8 4#8 0x53#8 [] 0x7C#8 0x0A#8) =
      some (hex [0x0D, 0x02, 0x01, 0x04, 0x53, 0x7C, 0x5E, 0x4A, 0x0A]) := by decide

/-! ### The checksum engine -/

/-- V4, V9, V10. -/
theorem test_crcStep : returned (.crcStep 0x0000#16 0x80#8) = some (.word 0x9188#16) ∧
    returned (.crcStep 0x1021#16 0x10#8) = some (.word 0x2100#16) ∧
    returned (.crcStep 0xFFFF#16 0x00#8) = some (.word 0xE1F0#16) := by decide
/-- V1, V11, V22. -/
theorem test_crcCompute :
    returned (.crcCompute (hex [0x31, 0x32, 0x33, 0x34, 0x35, 0x36, 0x37, 0x38, 0x39])) = some (.word 0x31C3#16) ∧
    returned (.crcCompute []) = some (.word 0x0000#16) ∧
    returned (.crcCompute (hex [0xFF, 0xFF, 0xFF, 0xFF])) = some (.word 0x99CF#16) := by decide
/-- V32, V34, V37. -/
theorem test_crcVerify : returned (.crcVerify (hex [0x02, 0x01, 0x04, 0x10, 0x04, 0xAD])) = some (.bool true) ∧
    returned (.crcVerify (hex [0x02, 0x01, 0x04, 0x10, 0xAD, 0x04])) = some (.bool false) ∧
    returned (.crcVerify []) = some (.bool true) := by decide

/-! ### The codec -/

/-- E1 to E5. -/
theorem test_escEnc : returned (.escEnc 0x0D#8) = some (.bytes (hex [0x5E, 0x4D])) ∧
    returned (.escEnc 0x0A#8) = some (.bytes (hex [0x5E, 0x4A])) ∧ returned (.escEnc 0x5E#8) = some (.bytes (hex [0x5E, 0x9E])) ∧
    returned (.escEnc 0x40#8) = some (.bytes (hex [0x40])) ∧ returned (.escEnc 0x9E#8) = some (.bytes (hex [0x9E])) := by decide
/-- E9, E11. -/
theorem test_escEncSeq :
    returned (.escEncSeq (hex [0x10, 0x0D, 0x5E, 0x0A, 0x11])) =
      some (.bytes (hex [0x10, 0x5E, 0x4D, 0x5E, 0x9E, 0x5E, 0x4A, 0x11])) ∧
    returned (.escEncSeq []) = some (.bytes []) := by decide
/-- E22, E23, E24, E27. -/
theorem test_escDecStep : returned (.escDecStep false 0x5E#8) = some (.decStep true none) ∧
    returned (.escDecStep true 0x5E#8) = some (.decStep false (some 0x1E#8)) ∧
    returned (.escDecStep false 0x41#8) = some (.decStep false (some 0x41#8)) ∧
    returned (.escDecStep true 0x4A#8) = some (.decStep false (some 0x0A#8)) := by decide
/-- R82, R83 by hand at the operand 0x0A (R130: the transforms are total): plain it stays, escaped it is 0x0A - 0x40 = 0xCA. -/
theorem test_escDec_of_eot :
    step { State.reset with pending := [.op (.escDecStep true 0x0A#8)] } =
      .next { State.reset with result := .decStep false (some 0xCA#8) } ∧
    step { State.reset with pending := [.op (.escDecSeq (hex [0x41, 0x0A, 0x5E, 0x0A]))] } =
      .next { State.reset with result := .bytes (hex [0x41, 0x0A, 0xCA]) } := ⟨rfl, rfl⟩
/-- E10, E14, E16. -/
theorem test_escDecSeq :
    returned (.escDecSeq (hex [0x10, 0x5E, 0x4D, 0x5E, 0x9E, 0x5E, 0x4A, 0x11])) =
      some (.bytes (hex [0x10, 0x0D, 0x5E, 0x0A, 0x11])) ∧
    returned (.escDecSeq (hex [0x5E, 0x5E, 0x5E])) = some (.bytes (hex [0x1E])) ∧
    returned (.escDecSeq (hex [0x5E, 0x00])) = some (.bytes (hex [0xC0])) := by decide

/-! ### The encoder -/

/-- F2, F5, F11. -/
theorem test_encFrame :
    returned (.encFrame 2#8 1#8 4#8 0x10#8 (hex [0xAA, 0xBB])) =
      some (.bytes (hex [0x0D, 0x02, 0x01, 0x04, 0x10, 0x04, 0xAD, 0x0A])) ∧
    returned (.encFrame 2#8 1#8 5#8 0x10#8 (hex [0x12, 0x34])) =
      some (.bytes (hex [0x0D, 0x02, 0x01, 0x05, 0x10, 0x12, 0x34, 0xCD, 0xF1, 0x0A])) ∧
    returned (.encFrame 2#8 1#8 0x0A#8 0x10#8 (hex [0x01])) =
      some (.bytes (hex [0x0D, 0x02, 0x01, 0x5E, 0x4A, 0x10, 0x27, 0xA2, 0x0A])) := by decide
/-- F15: every byte but the type escaped. -/
theorem test_encFrame_escapes :
    returned (.encFrame 0x0D#8 0x0A#8 5#8 0x5E#8 (hex [0x0D, 0x0A, 0x5E])) = some (.bytes (hex
      [0x0D, 0x5E, 0x4D, 0x5E, 0x4A, 0x05, 0x5E, 0x9E, 0x5E, 0x4D, 0x5E, 0x4A, 0x5E, 0x9E, 0x8E, 0x9F, 0x0A])) := by decide
/-- The telegram is handed over as one write (R38), here F1 after an earlier write. -/
theorem test_telegramTx : exec (.telegramTx 2#8 1#8 4#8 0x10#8 [] 0x04#8 0xAD#8) { State.reset with sent := [[0x41#8]] } =
    .next { State.reset with sent := [[0x41#8], hex [0x0D, 0x02, 0x01, 0x04, 0x10, 0x04, 0xAD, 0x0A]] } := rfl

/-- R5, R52, R54: the layout's numbers are those of the forms the encoder and the receiver use. -/
theorem test_layout : layout = ⟨4, 5, 0, 1, 2, 3, 2⟩ ∧ (txContent 2#8 1#8 4#8 0x10#8 []).length = layout.txHdrLen ∧
    (be16 0x04AD#16).length = layout.crcLen := by decide
/-- Conflict C1: with the other reading (positions 0, 2, 3, payload from 4, least length 6) in place of the layout, the body of F1 is
accepted field for field, and its payload is empty. -/
theorem test_other_layout :
    (rxCloseWith ⟨4, 6, 0, 2, 3, 4, 2⟩
      { at' .huntingEnd false [0x02, 0x01, 0x04, 0x10, 0x04, 0xAD] with expType := 4#8 }).rxState = .ready ∧
    rxPayload ⟨4, 6, 0, 2, 3, 4, 2⟩ (at' .huntingEnd false [0x02, 0x01, 0x04, 0x10, 0x04, 0xAD]) = [] ∧
    (decodeRxBody ⟨4, 6, 0, 2, 3, 4, 2⟩ (hex [0x02, 0x01, 0x04, 0x10, 0x04, 0xAD])).toOption =
      some (.bodyRx 2#8 4#8 0x10#8 [] 0x04#8 0xAD#8) := by decide

/-! ### The type codes -/

/-- R58, R59: 0x08 lies between two write-class codes and is not one. -/
theorem test_type_codes :
    returned .typeNack = some (.typeCode 0x00#8 false) ∧ returned .typeCrc = some (.typeCode 0x01#8 false) ∧
    returned .typeBusy = some (.typeCode 0x02#8 false) ∧ returned .typeAck = some (.typeCode 0x03#8 false) ∧
    returned .typeRdcmd = some (.typeCode 0x04#8 false) ∧ returned .typeWrcmd = some (.typeCode 0x05#8 true) ∧
    returned .typeWrset = some (.typeCode 0x06#8 true) ∧ returned .typeWrclr = some (.typeCode 0x07#8 true) ∧
    returned .typeDatagram = some (.typeCode 0x08#8 false) ∧ returned .typeWrtgl = some (.typeCode 0x09#8 true) ∧
    returned .typeNone = some (.typeCode 0xFF#8 false) ∧
    returned (.typeUnlisted 0x0A#8) = some (.typeCode 0x0A#8 false) := by decide

/-! ### The receiver, single steps -/

/-- From a failed attempt (P6, step 2). -/
theorem test_rxStart : exec (.rxStart 2#8 3#8 0x10#8) (at' .checksumInvalid true [0x02]) =
    .next { State.reset with expAddr := 2#8, expType := 3#8, expReg := 0x10#8 } := rfl
/-- S1 to S3. -/
theorem test_hunting_discards :
    after (.data 0x41#8) (at' .huntingStart false []) = some ⟨.huntingStart, false, [], []⟩ ∧
    after .eot (at' .huntingStart false []) = some ⟨.huntingStart, false, [], []⟩ ∧
    after .soe (at' .huntingStart false []) = some ⟨.huntingStart, false, [], []⟩ ∧
    after (.rxHuntDiscard 0x41#8) (at' .huntingStart false []) = some ⟨.huntingStart, false, [], []⟩ := by decide
/-- S4, S6: SOT opens a frame, and is data inside one. -/
theorem test_sot :
    after .sot (at' .huntingStart false []) = some ⟨.huntingEnd, false, [], []⟩ ∧
    after .rxHuntSot (at' .huntingStart false []) = some ⟨.huntingEnd, false, [], []⟩ ∧
    after .sot (at' .huntingEnd false [0x02]) = some ⟨.huntingEnd, false, hex [0x02, 0x0D], []⟩ := by decide
/-- S5, S10. -/
theorem test_data_in_a_frame :
    after (.data 0x08#8) (at' .huntingEnd false [0x02]) = some ⟨.huntingEnd, false, hex [0x02, 0x08], []⟩ ∧
    after (.rxByteData 0x08#8) (at' .huntingEnd false [0x02]) = some ⟨.huntingEnd, false, hex [0x02, 0x08], []⟩ ∧
    after (.data 0x00#8) (at' .huntingEnd true [0x02]) = some ⟨.huntingEnd, false, hex [0x02, 0xC0], []⟩ := by decide
/-- S7, S8, S9. -/
theorem test_escape_in_a_frame :
    after .soe (at' .huntingEnd false [0x02]) = some ⟨.huntingEnd, true, hex [0x02], []⟩ ∧
    after .rxByteSoe (at' .huntingEnd false [0x02]) = some ⟨.huntingEnd, true, hex [0x02], []⟩ ∧
    after (.rxByteEscData 0x4D#8) (at' .huntingEnd true [0x02]) = some ⟨.huntingEnd, false, hex [0x02, 0x0D], []⟩ ∧
    after .soe (at' .huntingEnd true [0x02]) = some ⟨.huntingEnd, false, hex [0x02, 0x1E], []⟩ := by decide
/-- S11, S18, S25: the frame is accepted, with an escape pending too, and with an empty payload. -/
theorem test_close_ready :
    after .eot (at' .huntingEnd false [0x02, 0x08, 0x10, 0x12, 0x34, 0x91, 0xE5]) =
      some ⟨.ready, false, hex [0x02, 0x08, 0x10, 0x12, 0x34, 0x91, 0xE5], hex [0x12, 0x34]⟩ ∧
    after .rxCloseReady (at' .huntingEnd true [0x02, 0x08, 0x10, 0x12, 0x34, 0x91, 0xE5]) =
      some ⟨.ready, true, hex [0x02, 0x08, 0x10, 0x12, 0x34, 0x91, 0xE5], hex [0x12, 0x34]⟩ ∧
    after .rxByteEot { at' .huntingEnd false [0x02, 0x08, 0x40, 0xAF, 0x0D] with expReg := 0x40#8 } =
      some ⟨.ready, false, hex [0x02, 0x08, 0x40, 0xAF, 0x0D], []⟩ := by decide
/-- S12, S13, S14. -/
theorem test_close_contentMismatch :
    after .rxCloseContentMismatch (at' .huntingEnd false [0x03, 0x08, 0x10, 0xC2, 0xC8]) =
      some ⟨.contentMismatch, false, hex [0x03, 0x08, 0x10, 0xC2, 0xC8], []⟩ ∧
    after .eot (at' .huntingEnd false [0x02, 0x03, 0x10, 0x29, 0x02]) =
      some ⟨.contentMismatch, false, hex [0x02, 0x03, 0x10, 0x29, 0x02], []⟩ ∧
    after .eot (at' .huntingEnd false [0x02, 0x08, 0x11, 0x12, 0x34, 0xA6, 0xD5]) =
      some ⟨.contentMismatch, false, hex [0x02, 0x08, 0x11, 0x12, 0x34, 0xA6, 0xD5], []⟩ := by decide
/-- S15, S16: a bad checksum wins over a wrong address. -/
theorem test_close_checksumInvalid :
    after .rxCloseChecksumInvalid (at' .huntingEnd false [0x02, 0x08, 0x10, 0x12, 0x34, 0x91, 0xE4]) =
      some ⟨.checksumInvalid, false, hex [0x02, 0x08, 0x10, 0x12, 0x34, 0x91, 0xE4], []⟩ ∧
    after .eot (at' .huntingEnd false [0x03, 0x08, 0x10, 0x12, 0x34, 0x91, 0xE4]) =
      some ⟨.checksumInvalid, false, hex [0x03, 0x08, 0x10, 0x12, 0x34, 0x91, 0xE4], []⟩ := by decide
/-- S17, and P3 (h): four bytes that verify and match are too short. -/
theorem test_close_tooShort :
    after .rxCloseTooShort (at' .huntingEnd false [0x02, 0x08, 0x10, 0x91]) =
      some ⟨.tooShort, false, hex [0x02, 0x08, 0x10, 0x91], []⟩ ∧
    after .eot { at' .huntingEnd false [0x02, 0x03, 0x56, 0x01] with expType := 3#8, expReg := 0x56#8 } =
      some ⟨.tooShort, false, hex [0x02, 0x03, 0x56, 0x01], []⟩ := by decide
/-- S19 to S22. -/
theorem test_read_failures :
    after .rxFailTimeout (at' .huntingEnd false [0x02, 0x08]) = some ⟨.readTimeout, false, hex [0x02, 0x08], []⟩ ∧
    after .rxFailConnLost (at' .huntingEnd true [0x02, 0x08]) = some ⟨.transportLost, true, hex [0x02, 0x08], []⟩ ∧
    after .rxFailTimeout (at' .huntingStart false []) = some ⟨.readTimeout, false, [], []⟩ ∧
    after .rxFailConnLost (at' .huntingStart false []) = some ⟨.transportLost, false, [], []⟩ := by decide
/-- S23, S24. -/
theorem test_terminal_states_have_no_step :
    exec (.data 0x41#8) (at' .ready false []) = .fault .noStep ∧
    exec .rxFailTimeout (at' .tooShort false []) = .fault .noStep := ⟨rfl, rfl⟩
/-- X6, R61 (the corner 0x5E 0x0D). -/
theorem test_pairs_in_a_frame :
    after .escSot (at' .huntingEnd false [0x02]) = some ⟨.huntingEnd, false, hex [0x02, 0x0D], []⟩ ∧
    after .escEot (at' .huntingEnd false [0x02]) = some ⟨.huntingEnd, false, hex [0x02, 0x0A], []⟩ ∧
    after .escSoe (at' .huntingEnd false [0x02]) = some ⟨.huntingEnd, false, hex [0x02, 0x5E], []⟩ ∧
    after (.escAny 0x0D#8) (at' .huntingEnd false [0x02]) = some ⟨.huntingEnd, false, hex [0x02, 0xCD], []⟩ := by decide
/-- P3 (i), P4 (b): a reply, and an encoded telegram read as if it were one (R93). -/
theorem test_bodyRx :
    after (.bodyRx 2#8 8#8 0x10#8 [0x12#8, 0x34#8] 0x91#8 0xE5#8) (at' .huntingStart false []) =
      some ⟨.ready, false, hex [0x02, 0x08, 0x10, 0x12, 0x34, 0x91, 0xE5], hex [0x12, 0x34]⟩ ∧
    after (.bodyRx 2#8 1#8 4#8 [0x10#8] 0x04#8 0xAD#8) { at' .huntingStart false [] with expType := 1#8, expReg := 4#8 } =
      some ⟨.ready, false, hex [0x02, 0x01, 0x04, 0x10, 0x04, 0xAD], hex [0x10]⟩ := by decide

/-! ### The loop, the host's operations, reset -/

/-- R117: in a terminal state RX.RUN returns at once. -/
theorem test_rxRun : exec .rxRun (at' .tooShort false []) =
    .next { at' .tooShort false [] with result := .outcome .tooShort [] } := rfl
/-- P5, step 17: the EOT ends the loop, and what follows stays unread (R119 (e)). -/
theorem test_loop_returns :
    (match step { at' .huntingEnd false [0x02, 0x08, 0x10, 0x0D, 0x5E, 0x0A, 0x5C, 0x61] with
        loop := some .run, buffered := hex [0x0A, 0x0D, 0x02] } with
      | .next t => some (t.loop, t.result, t.buffered)
      | .fault _ => none
      | .refused _ => none) =
    some (none, .outcome .ready (hex [0x0D, 0x5E, 0x0A]), hex [0x0D, 0x02]) := by decide
/-- R153, R64: the telegram is F1 with the master id 0x01, and stale input is gone. -/
theorem test_readRegister :
    exec (.readRegister 2#8 0x10#8) { State.reset with masterId := 1#8, buffered := [0x41#8] } =
    .next { at' .huntingStart false [] with
      masterId := 1#8, loop := some .readRegister
      sent := [hex [0x0D, 0x02, 0x01, 0x04, 0x10, 0x04, 0xAD, 0x0A]] } := rfl
/-- R64: the telegram is F5, and an ACK is expected. -/
theorem test_writeRegister :
    exec (.writeRegister 2#8 0x10#8 [0x12#8, 0x34#8]) { State.reset with masterId := 1#8 } =
    .next { at' .huntingStart false [] with
      expType := 3#8, masterId := 1#8, loop := some .writeRegister
      sent := [hex [0x0D, 0x02, 0x01, 0x05, 0x10, 0x12, 0x34, 0xCD, 0xF1, 0x0A]] } := rfl
/-- R153: the telegram is F6. -/
theorem test_request :
    exec (.request 2#8 0x10#8 6#8 [0x01#8] 8#8) { State.reset with masterId := 1#8 } =
    .next { at' .huntingStart false [] with
      masterId := 1#8, loop := some .request
      sent := [hex [0x0D, 0x02, 0x01, 0x06, 0x10, 0x01, 0x93, 0xC5, 0x0A]] } := rfl
/-- R21, R150: what a reset writes, but for the three bytes it leaves unspecified. -/
theorem test_reset : after .reset { at' .ready true [0x02] with payload := [0x12#8] } = some ⟨.huntingStart, false, [], []⟩ := by
  decide
/-- A word of the table placed by withFetchWord is the next one run: here SOT, right after reset. -/
theorem test_withFetchWord : step (State.reset.withFetchWord 8 0x0D) = .next { State.reset with rxState := .huntingEnd } := rfl

/-! ### Witnesses: for each statement with hypotheses, states and operands that meet all of them together -/

/-- The reply of P3 (i), as a body. -/
def reply : List Nat := [0x02, 0x08, 0x10, 0x12, 0x34, 0x91, 0xE5]

theorem test_witness_WireByteDecodesByItsClass :
    (0x0C#8 ≠ 0x0D#8 ∧ 0x0C#8 ≠ 0x0A#8 ∧ 0x0C#8 ≠ 0x5E#8) ∧ (0x0B#8 ≠ 0x0D#8 ∧ 0x0B#8 ≠ 0x0A#8 ∧ 0x0B#8 ≠ 0x5E#8) ∧
    (0x5F#8 ≠ 0x0D#8 ∧ 0x5F#8 ≠ 0x0A#8 ∧ 0x5F#8 ≠ 0x5E#8) := by decide
theorem test_witness_DecodeOfEncodeIsTheInstruction :
    (wellFormed (.data 0xFF#8) = true ∧ encode (.data 0xFF#8) = some [0xFF#8]) ∧
    (wellFormed (.escAny 0x5E#8) = true ∧ encode (.escAny 0x5E#8) = some [0x5E#8, 0x5E#8]) ∧
    (wellFormed (.typeUnlisted 0xFE#8) = true ∧ encode (.typeUnlisted 0xFE#8) = some [0xFE#8]) ∧
    (wellFormed (.telegramTx 2#8 1#8 4#8 0x10#8 [] 0x04#8 0xAD#8) = true ∧
      encode (.telegramTx 2#8 1#8 4#8 0x10#8 [] 0x04#8 0xAD#8) =
        some (hex [0x0D, 0x02, 0x01, 0x04, 0x10, 0x04, 0xAD, 0x0A])) ∧
    (wellFormed (.bodyRx 2#8 8#8 0x40#8 [] 0xAF#8 0x0D#8) = true ∧
      encode (.bodyRx 2#8 8#8 0x40#8 [] 0xAF#8 0x0D#8) = some (hex [0x02, 0x08, 0x40, 0xAF, 0x0D])) := by decide
theorem test_witness_EncodeOfDecodeIsTheBytes :
    decode .wireByte [0x0D#8] = .ok .sot ∧ decode .escapePair [0x5E#8, 0x4A#8] = .ok .escEot ∧
    decode .typeCode [0x09#8] = .ok .typeWrtgl ∧
    decode .body (hex [0x02, 0x08, 0x40, 0xAF, 0x0D]) = .ok (.bodyRx 2#8 8#8 0x40#8 [] 0xAF#8 0x0D#8) ∧
    dec .telegram [0x0D, 0x02, 0x01, 0x04, 0x10, 0x04, 0xAD, 0x0A] =
      some (.telegramTx 2#8 1#8 4#8 0x10#8 [] 0x04#8 0xAD#8) := ⟨rfl, rfl, rfl, rfl, by decide⟩
theorem test_witness_StepRunsTheFetchedInstruction :
    (∃ s : State, s.loop = none ∧ s.pending = .encoded .wireByte [0x0D#8] :: [.op .eot] ∧
      decode .wireByte [0x0D#8] = .ok .sot ∧ wellFormed .sot = true) ∧
    (∃ s : State, s.loop = none ∧ s.pending = .op (.data 0x41#8) :: [] ∧ wellFormed (.data 0x41#8) = true) ∧
    (∃ s : State, s.loop = none ∧ s.pending = .encoded .escapePair [0x5E#8, 0x0A#8] :: [] ∧
      decode .escapePair [0x5E#8, 0x0A#8] = .error .notAPair) ∧
    (∃ s : State, s.loop = none ∧ s.pending = .op (.typeUnlisted 0x09#8) :: [] ∧ wellFormed (.typeUnlisted 0x09#8) = false) ∧
    (decodeTableWord 16 0x5E4D = some .escSot ∧ wellFormed .escSot = true) :=
  ⟨⟨{ State.reset with pending := [.encoded .wireByte [0x0D#8], .op .eot] }, rfl, rfl, rfl, rfl⟩,
    ⟨{ State.reset with pending := [.op (.data 0x41#8)] }, rfl, rfl, rfl⟩,
    ⟨{ State.reset with pending := [.encoded .escapePair [0x5E#8, 0x0A#8]] }, rfl, rfl, rfl⟩,
    ⟨{ State.reset with pending := [.op (.typeUnlisted 0x09#8)] }, rfl, rfl, rfl⟩, rfl, rfl⟩
theorem test_witness_LoopStepConsumesOneReadOutcome :
    (∃ s t : State, s.loop = some .run ∧ s.rxState.hunting = true ∧ s.buffered = 0x0D#8 :: [0x41#8] ∧
      exec (decodeWire 0x0D#8) { s with buffered := [0x41#8] } = .next t) ∧
    (∃ s t : State, s.loop = some .request ∧ s.rxState.hunting = true ∧ s.buffered = [] ∧ s.upcoming = .timeout :: [] ∧
      exec (decodeOutcome .timeout) { s with upcoming := [] } = .next t) ∧
    (∃ s : State, s.loop = some .run ∧ s.rxState.hunting = true ∧ s.buffered = [] ∧ s.upcoming = []) :=
  ⟨⟨{ State.reset with loop := some .run, buffered := [0x0D#8, 0x41#8] }, _, rfl, rfl, rfl, rfl⟩,
    ⟨{ State.reset with loop := some .request, upcoming := [.timeout] }, _, rfl, rfl, rfl, rfl, rfl⟩,
    ⟨{ State.reset with loop := some .run }, rfl, rfl, rfl, rfl⟩⟩
theorem test_witness_NothingPendingLeavesTheBlockIdle : State.reset.loop = none ∧ State.reset.pending = [] := ⟨rfl, rfl⟩
theorem test_witness_TerminalStatesHaveNoStep :
    (at' .transportLost false []).rxState.hunting = false ∧ arrivalByte .rxHuntSot = some 0x0D#8 := by decide
theorem test_witness_HuntingStartDiscardsEveryByteButSot :
    arrivalByte (.rxHuntDiscard 0x0C#8) = some 0x0C#8 ∧ (at' .huntingStart false []).rxState = .huntingStart ∧
    0x0C#8 ≠ 0x0D#8 := by decide
theorem test_witness_SotOpensAFrame :
    arrivalByte .rxHuntSot = some 0x0D#8 ∧ arrivalByte .sot = some 0x0D#8 ∧
    (at' .huntingStart false []).rxState = .huntingStart := by decide
/-- One state for each of the four ends, at the bounds: four bytes, five bytes. -/
theorem test_witness_EotClosesTheFrame :
    arrivalByte .rxCloseReady = some 0x0A#8 ∧
    ((at' .huntingEnd true [0x02, 0x03, 0x56, 0x01]).rxState = .huntingEnd ∧
      (at' .huntingEnd true [0x02, 0x03, 0x56, 0x01]).body.length = 4) ∧
    (at' .huntingEnd false [0x02, 0x08, 0x10, 0x00, 0x00]).rxState = .huntingEnd ∧
    (at' .huntingEnd false [0x03, 0x08, 0x10, 0xC2, 0xC8]).rxState = .huntingEnd ∧
    (at' .huntingEnd false reply).rxState = .huntingEnd := by decide
theorem test_witness_SoeSetsEscapePending :
    arrivalByte .rxByteSoe = some 0x5E#8 ∧ (at' .huntingEnd false [0x02]).rxState = .huntingEnd ∧
    (at' .huntingEnd false [0x02]).escPending = false := by decide
theorem test_witness_PlainDataByteIsAppended :
    arrivalByte .sot = some 0x0D#8 ∧ (at' .huntingEnd false [0x02]).rxState = .huntingEnd ∧
    (at' .huntingEnd false [0x02]).escPending = false ∧ 0x0D#8 ≠ 0x0A#8 ∧ 0x0D#8 ≠ 0x5E#8 := by decide
theorem test_witness_EscapedDataByteIsAppendedLessEcc :
    arrivalByte (.rxByteEscData 0x3F#8) = some 0x3F#8 ∧ (at' .huntingEnd true [0x02]).rxState = .huntingEnd ∧
    (at' .huntingEnd true [0x02]).escPending = true ∧ 0x3F#8 ≠ 0x0A#8 := by decide
theorem test_witness_TimeoutEndsTheAttempt :
    ((at' .huntingStart false []).rxState = .huntingStart ∨ (at' .huntingStart false []).rxState = .huntingEnd) ∧
    ((at' .huntingEnd true [0x02]).rxState = .huntingStart ∨ (at' .huntingEnd true [0x02]).rxState = .huntingEnd) := by decide
theorem test_witness_ConnectionLossEndsTheAttempt :
    ((at' .huntingStart false []).rxState = .huntingStart ∨ (at' .huntingStart false []).rxState = .huntingEnd) ∧
    ((at' .huntingEnd false reply).rxState = .huntingStart ∨ (at' .huntingEnd false reply).rxState = .huntingEnd) := by decide
theorem test_witness_RunWaitsWhileHunting :
    (at' .huntingStart false []).rxState.hunting = true ∧ (at' .huntingEnd false []).rxState.hunting = true ∧
    (at' .ready false reply).rxState.hunting = false := by decide
/-- A turn that goes on, and one that ends the loop. -/
theorem test_witness_LoopReturnsToItsCaller :
    (∃ s t : State, s.loop = some .request ∧ s.rxState.hunting = true ∧ step s = .next t ∧ t.rxState.hunting = true) ∧
    (∃ s t : State, s.loop = some .readRegister ∧ s.rxState.hunting = true ∧ step s = .next t ∧ t.rxState.hunting = false) :=
  ⟨⟨{ State.reset with loop := some .request, buffered := [0x0D#8] }, _, rfl, rfl, rfl, rfl⟩,
    ⟨{ State.reset with loop := some .readRegister, upcoming := [.timeout] }, _, rfl, rfl, rfl, rfl⟩⟩
theorem test_witness_EscapePairInAFrameAppendsOneByte :
    (at' .huntingEnd false []).rxState = .huntingEnd ∧ (at' .huntingEnd false []).escPending = false ∧
    0x0B#8 ≠ 0x0A#8 := by decide
theorem test_witness_EscapePairElsewhere :
    ((at' .huntingStart false []).rxState = .huntingStart ∧ 0x0C#8 ≠ 0x0D#8) ∧
    ((at' .huntingEnd true []).rxState = .huntingEnd ∧ (at' .huntingEnd true []).escPending = true ∧
      0x5F#8 ≠ 0x0A#8 ∧ 0x5F#8 ≠ 0x5E#8) ∧
    (at' .ready false reply).rxState.hunting = false := by decide
theorem test_witness_TypeCodesAreClassified :
    ((0x0A#8 : Byte) ≤ 0x0A#8 ∧ (0x0A#8 : Byte) ≤ 0xFE#8) ∧ ((0x0A#8 : Byte) ≤ 0xFE#8 ∧ (0xFE#8 : Byte) ≤ 0xFE#8) := by decide
theorem test_witness_TelegramIsWrittenOnce :
    wellFormed (.telegramTx 2#8 1#8 5#8 0x10#8 [0x0D#8] 0x0B#8 0x19#8) = true := by decide
theorem test_witness_ReceivedBodyIsClassified : (at' .huntingStart false []).rxState = .huntingStart := rfl
theorem test_witness_ReceivedBodyElsewhere :
    (at' .huntingEnd true [0x02]).rxState = .huntingEnd ∧ (at' .huntingEnd false []).rxState = .huntingEnd ∧
    (at' .tooShort true [0x02]).rxState.hunting = false := by decide
/-- DATAGRAM lies between two write-class codes. -/
theorem test_witness_PayloadIsDroppedUnlessWriteClass :
    0x08#8 ≠ 0x05#8 ∧ 0x08#8 ≠ 0x06#8 ∧ 0x08#8 ≠ 0x07#8 ∧ 0x08#8 ≠ 0x09#8 := by decide
theorem test_witness_ChecksumIsLinear : (hex [0x02, 0x01]).length = (hex [0xFF, 0x80]).length := by decide
/-- A sequence of two bytes and one of one (V38); a burst of 16 bits across three bytes of V35, one byte before it and three after. -/
theorem test_witness_BurstErrorsAreDetected :
    (crcVerify (hex [0x00, 0x00]) = true ∧ (hex [0x00, 0x00]).length ≤ 2 ∧
      (hex [0x00, 0x01]).length = (hex [0x00, 0x00]).length ∧ hex [0x00, 0x01] ≠ hex [0x00, 0x00]) ∧
    (crcVerify (hex [0x00]) = true ∧ (hex [0x00]).length ≤ 2 ∧ (hex [0x80]).length = (hex [0x00]).length ∧ hex [0x80] ≠ hex [0x00]) ∧
    crcVerify (hex reply) = true ∧ 0x8001#16 ≠ 0x0000#16 ∧ 8 ≤ 8 ∧ (hex reply).length = 1 + 3 + 3 := by decide
theorem test_witness_EscapedBytesHoldNoDelimiter : (escEncSeq (hex [0x41, 0x0D]))[1]? = some 0x5E#8 := by decide
theorem test_witness_EscapingUndoesDeescapingOnlyOnCanonicalInput :
    hex [0x5E, 0x4D] = escEncSeq (hex [0x0D]) ∧ escEncSeq (escDecSeq (hex [0x5E, 0x4D])) = hex [0x5E, 0x4D] := by decide
theorem test_witness_EncodedTelegramProperties :
    (0 < 5 ∧ 5 < (encFrame 2#8 1#8 4#8 0x10#8 []).length - 1) ∧
    (wellFormedTelegram 4#8 [] = true ∧ wellFormedTelegram 5#8 (hex [0x0D]) = true ∧
      encFrame 2#8 1#8 5#8 0x10#8 (hex [0x0D]) = encFrame 2#8 1#8 5#8 0x10#8 (hex [0x0D])) := by decide
/-- P5: noise, a frame with three pairs. -/
theorem test_witness_AttemptConsidersTheFirstFrame :
    (at' .huntingStart false []).rxState = .huntingStart ∧ 0x0D#8 ∉ hex [0x00, 0x5E, 0x0A, 0x41] ∧
    0x0A#8 ∉ hex [0x02, 0x08, 0x10, 0x5E, 0x4D, 0x5E, 0x9E, 0x5E, 0x4A, 0x5C, 0x61] := by decide
/-- P3 (e), after noise. -/
theorem test_witness_FailureBeforeTheFrameClosesEndsTheAttempt :
    (at' .huntingStart false []).rxState = .huntingStart ∧ 0x0D#8 ∉ hex [0x0A] ∧ 0x0A#8 ∉ hex [0x02, 0x08] := by decide
/-- P5 again, by its content. -/
theorem test_witness_WellMadeFrameIsAccepted :
    (at' .huntingStart false []).rxState = .huntingStart ∧ 0x0D#8 ∉ hex [0x00, 0x5E, 0x0A, 0x41] ∧
    3 ≤ (hex [0x02, 0x08, 0x10, 0x0D, 0x5E, 0x0A]).length ∧
    (hex [0x02, 0x08, 0x10, 0x0D, 0x5E, 0x0A])[0]? = some (at' .huntingStart false []).expAddr ∧
    (hex [0x02, 0x08, 0x10, 0x0D, 0x5E, 0x0A])[1]? = some (at' .huntingStart false []).expType ∧
    (hex [0x02, 0x08, 0x10, 0x0D, 0x5E, 0x0A])[2]? = some (at' .huntingStart false []).expReg := by decide
/-- The end of P5, one byte of it still to come after the buffered ones. -/
theorem test_witness_RunningLoopIsTheAttempt :
    ∃ s t : State, s.loop = some .run ∧ s.rxState.hunting = true ∧
      attempt (bytesRead s.buffered ++ s.upcoming) s = (t, [.timeout]) ∧ t.rxState.hunting = false :=
  ⟨{ at' .huntingEnd false [0x02, 0x08, 0x10, 0x0D, 0x5E, 0x0A, 0x5C] with
      loop := some .run, buffered := [0x61#8], upcoming := [.byte 0x0A#8, .timeout] }, _, rfl, rfl, rfl, rfl⟩
/-- The reply of P3 (i) after one stray byte, and a byte left over. -/
theorem test_witness_ReadRegisterReturnsTheReplyPayload :
    ∃ s : State,
      s.upcoming = bytesRead (hex [0x0A] ++ [0x0D#8] ++
        escEncSeq (hex [0x02, 0x08, 0x10, 0x12, 0x34] ++ be16 (crcCompute (hex [0x02, 0x08, 0x10, 0x12, 0x34]))) ++ [0x0A#8]) ++
          [.byte 0x55#8] ∧
      0x0D#8 ∉ hex [0x0A] ∧ 3 ≤ (hex [0x02, 0x08, 0x10, 0x12, 0x34]).length ∧
      (hex [0x02, 0x08, 0x10, 0x12, 0x34])[0]? = some 0x02#8 ∧ (hex [0x02, 0x08, 0x10, 0x12, 0x34])[1]? = some 0x08#8 ∧
      (hex [0x02, 0x08, 0x10, 0x12, 0x34])[2]? = some 0x10#8 :=
  ⟨{ State.reset with upcoming := bytesRead (hex [0x0A, 0x0D, 0x02, 0x08, 0x10, 0x12, 0x34, 0x91, 0xE5, 0x0A, 0x55]) },
    by decide, by decide, by decide, by decide, by decide, by decide⟩
theorem test_witness_TransportCallsRun :
    ∀ c : Stimulus, ∃ s : State, s.loop = none ∧ s.pending = c :: [] :=
  fun c => ⟨{ State.reset with pending := [c] }, rfl, rfl⟩
/-- A state of the invariant that holds an accepted frame, and its next step. -/
theorem test_witness_EveryStepKeepsTheReceiverInvariant :
    ∃ s t : State, Inv s ∧ s.rxState = .ready ∧ step s = .next t :=
  ⟨{ at' .ready false reply with payload := hex [0x12, 0x34], pending := [.op (.rxStart 2#8 3#8 0x10#8)] }, _,
    { start := fun h => absurd h (by decide)
      payload := fun _ => rfl
      ready := fun _ => ⟨by decide, by decide, by decide, by decide, by decide, by decide⟩
      tooShort := fun h => absurd h (by decide)
      checksum := fun h => absurd h (by decide)
      mismatch := fun h => absurd h (by decide)
      loop := fun h => absurd rfl h }, rfl, rfl⟩
theorem test_witness_BodyOnlyGrowsWithinAFrame :
    ∃ t : State, exec .escSot (at' .huntingEnd false [0x02]) = .next t ∧
      (at' .huntingEnd false [0x02]).rxState = .huntingEnd ∧ startsAttempt .escSot = false := ⟨_, rfl, rfl, rfl⟩
theorem test_witness_ExpectedBytesChangeOnlyAtAStart :
    (∃ t : State, exec .rxByteEot (at' .huntingEnd false [0x02]) = .next t ∧ startsAttempt .rxByteEot = false) ∧
    (∃ s t : State, s.loop ≠ none ∧ step s = .next t) :=
  ⟨⟨_, rfl, rfl⟩, ⟨{ State.reset with loop := some .run, upcoming := [.timeout] }, _, by decide, rfl⟩⟩
/-- One instruction and state for each clause. -/
theorem test_witness_ReceiverStateChangesOnlyAsListed :
    (∃ t : State, exec (.rxStart 2#8 3#8 0x10#8) (at' .ready false reply) = .next t ∧
      startsAttempt (.rxStart 2#8 3#8 0x10#8) = true) ∧
    (∃ t : State, exec (.escEnc 0x41#8) (at' .ready false reply) = .next t ∧ startsAttempt (.escEnc 0x41#8) = false ∧
      (at' .ready false reply).rxState.hunting = false) ∧
    (∃ t : State, exec .eot (at' .huntingEnd false []) = .next t ∧ startsAttempt .eot = false ∧
      (at' .huntingEnd false []).rxState = .huntingEnd) ∧
    (∃ t : State, exec (.escAny 0x0D#8) (at' .huntingStart false []) = .next t ∧ startsAttempt (.escAny 0x0D#8) = false ∧
      (at' .huntingStart false []).rxState = .huntingStart ∧ t.rxState = .huntingEnd) ∧
    (∃ t : State, exec .rxCloseReady (at' .huntingEnd false reply) = .next t ∧ startsAttempt .rxCloseReady = false ∧
      (at' .huntingEnd false reply).rxState.hunting = true ∧ t.rxState = .ready) ∧
    (∃ t : State, exec .rxFailTimeout (at' .huntingStart false []) = .next t ∧ startsAttempt .rxFailTimeout = false ∧
      (at' .huntingStart false []).rxState.hunting = true ∧ t.rxState = .readTimeout) ∧
    (∃ t : State, exec .rxFailConnLost (at' .huntingEnd false []) = .next t ∧ startsAttempt .rxFailConnLost = false ∧
      (at' .huntingEnd false []).rxState.hunting = true ∧ t.rxState = .transportLost) :=
  ⟨⟨_, rfl, rfl⟩, ⟨_, rfl, rfl, rfl⟩, ⟨_, rfl, rfl, rfl⟩, ⟨_, rfl, rfl, rfl, rfl⟩, ⟨_, rfl, rfl, rfl, rfl⟩, ⟨_, rfl, rfl, rfl, rfl⟩,
    ⟨_, rfl, rfl, rfl, rfl⟩⟩
theorem test_witness_PureOperationsLeaveTheBlockAlone :
    leavesReceiver (.telegramTx 2#8 1#8 4#8 0x10#8 [] 0x04#8 0xAD#8) = true ∧ leavesReceiver (.crcCompute []) = true := by decide
theorem test_witness_ArrivalsWriteOnlyTheReceiver :
    (∃ t : State, exec .eot (at' .huntingEnd false reply) = .next t ∧ (arrivalByte .eot).isSome = true) ∧
    (∃ t : State, exec .escSoe (at' .huntingEnd false reply) = .next t ∧ formatOf .escSoe = .escapePair) ∧
    (∃ t : State, exec .rxFailTimeout (at' .huntingEnd false reply) = .next t) := ⟨⟨_, rfl, rfl⟩, ⟨_, rfl, rfl⟩, ⟨_, rfl⟩⟩
theorem test_witness_ChannelAndHostFrame :
    ∃ t : State, exec (.writeRegister 2#8 0x10#8 [0x01#8]) State.reset = .next t ∧ t.sent ≠ State.reset.sent :=
  ⟨_, rfl, by decide⟩

end Sys2Proof.Tests
end

/-! ENC.FRAME and the payload of a type that is not write-class (spec 42_frame_encoder.md R91). -/

namespace Sys2Proof.Machine

/-- The types outside the write class, one disequality for each code of R59. -/
theorem writeClass_eq_false_iff (ty : Byte) :
    writeClass ty = false ↔ ty ≠ 0x05#8 ∧ ty ≠ 0x06#8 ∧ ty ≠ 0x07#8 ∧ ty ≠ 0x09#8 := by
  simp [writeClass, and_assoc]

theorem carried_of_writeClass_eq_false {ty : Byte} (h : writeClass ty = false) (payload : List Byte) :
    carried ty payload = [] := by
  simp [carried, h]

/-- The encoder sees a payload only through `carried`. -/
theorem encFrame_congr_carried {ty : Byte} {p q : List Byte} (h : carried ty p = carried ty q) (dest src reg : Byte) :
    encFrame dest src ty reg p = encFrame dest src ty reg q := by
  rw [encFrame, encFrame, h]

theorem exec_encFrame (dest src ty reg : Byte) (payload : List Byte) (s : State) :
    exec (.encFrame dest src ty reg payload) s = .next (returns (.bytes (encFrame dest src ty reg payload)) s) := rfl

/-- Settles O31: outside the write class every payload is carried as the empty one, which is all the encoder sees of it. -/
theorem payloadIsDroppedUnlessWriteClass : Obligations.PayloadIsDroppedUnlessWriteClass := by
  intro dest src ty reg payload s h5 h6 h7 h9
  have hw : writeClass ty = false := (writeClass_eq_false_iff ty).2 ⟨h5, h6, h7, h9⟩
  have hc : carried ty payload = carried ty [] := by simp only [carried_of_writeClass_eq_false hw]
  refine ⟨?_, _, exec_encFrame dest src ty reg payload s⟩
  rw [exec_encFrame, exec_encFrame, encFrame_congr_carried hc]

end Sys2Proof.Machine

/-! The start and the two failures of an attempt (spec 43_receiver.md R100, R115, R116). -/

namespace Sys2Proof.Machine

theorem exec_rxStart (a t r : Byte) (s : State) : exec (.rxStart a t r) s = .next (rxStart a t r s) := rfl

theorem exec_rxFailTimeout (s : State) : exec .rxFailTimeout s = rxFail .readTimeout s := rfl

theorem exec_rxFailConnLost (s : State) : exec .rxFailConnLost s = rxFail .transportLost s := rfl

/-- Settles O8: RX.START does not look at the state it starts from, and `rxStart` is R100's list of assignments. -/
theorem startBeginsAnAttemptInEveryState : Obligations.StartBeginsAnAttemptInEveryState := by
  intro a t r s
  rw [exec_rxStart, rxStart]

/-- Settles O16: both states are hunting ones, where RX.FAIL enters the terminal state and writes nothing else. -/
theorem timeoutEndsTheAttempt : Obligations.TimeoutEndsTheAttempt := by
  intro s h
  have hh : s.rxState.hunting = true := (hunting_iff _).2 h
  rw [exec_rxFailTimeout, rxFail_hunting hh, enterTerminal]

/-- Settles O17: both states are hunting ones, where RX.FAIL enters the terminal state and writes nothing else. -/
theorem connectionLossEndsTheAttempt : Obligations.ConnectionLossEndsTheAttempt := by
  intro s h
  have hh : s.rxState.hunting = true := (hunting_iff _).2 h
  rw [exec_rxFailConnLost, rxFail_hunting hh, enterTerminal]

end Sys2Proof.Machine

/-! The escape codec (spec 41_escape_codec.md section 3): its round trip, and the sequences that escaping gives. -/

namespace Sys2Proof.Machine

theorem escDecFrom_escEncSeq (y : List Byte) : escDecFrom false (escEncSeq y) = (false, y) := by
  induction y with
  | nil => rfl
  | cons v y ih => simp [escEncSeq, escDecFrom_append, escDecFrom_escEnc, ih]

@[simp] theorem escDecSeq_escEncSeq (y : List Byte) : escDecSeq (escEncSeq y) = y := by
  rw [escDecSeq, escDecFrom_escEncSeq]

theorem escEncSeq_injective : Function.Injective escEncSeq :=
  Function.LeftInverse.injective escDecSeq_escEncSeq

/-- The byte after an escape marker is the second byte of a pair that an encoder produces (R56). -/
def EndsPair (c : Option Byte) : Prop := c = some 0x4D#8 ∨ c = some 0x4A#8 ∨ c = some 0x9E#8

/-- The sequences that R86 calls canonical: no delimiter, and every marker opens a pair that an encoder produces. -/
def Canonical (x : List Byte) : Prop :=
  SOT ∉ x ∧ EOT ∉ x ∧ ∀ j : Nat, x[j]? = some SOE → EndsPair x[j + 1]?

theorem canonical_nil : Canonical [] := by simp [Canonical]

theorem canonical_cons (v : Byte) (x : List Byte) :
    Canonical (v :: x) ↔ v ≠ SOT ∧ v ≠ EOT ∧ (v = SOE → EndsPair x[0]?) ∧ Canonical x := by
  simp only [Canonical, List.mem_cons, not_or, ← Nat.and_forall_add_one (p := fun j => (v :: x)[j]? = some SOE → _),
    List.getElem?_cons_zero, List.getElem?_cons_succ, Option.some.injEq, ne_eq, eq_comm (a := v)]
  constructor
  · rintro ⟨⟨hsot, hsotx⟩, ⟨heot, heotx⟩, hpair, hx⟩
    exact ⟨hsot, heot, hpair, hsotx, heotx, hx⟩
  · rintro ⟨hsot, heot, hpair, hsotx, heotx, hx⟩
    exact ⟨⟨hsot, hsotx⟩, ⟨heot, heotx⟩, hpair, hx⟩

/-- In front of a canonical sequence stands one escaped byte. -/
theorem Canonical.exists_escEnc_append {b : Byte} {x : List Byte} (h : Canonical (b :: x)) :
    ∃ v z, b :: x = escEnc v ++ z ∧ Canonical z := by
  obtain ⟨hsot, heot, hpair, hx⟩ := (canonical_cons b x).1 h
  by_cases hb : b = SOE
  · subst hb
    cases x with
    | nil => simp [EndsPair] at hpair
    | cons c z =>
      have hz : Canonical z := ((canonical_cons c z).1 hx).2.2.2
      have hc : c = 0x4D#8 ∨ c = 0x4A#8 ∨ c = 0x9E#8 := by simpa [EndsPair] using hpair
      rcases hc with rfl | rfl | rfl
      · exact ⟨SOT, z, rfl, hz⟩
      · exact ⟨EOT, z, rfl, hz⟩
      · exact ⟨SOE, z, rfl, hz⟩
  · exact ⟨b, x, by simp [escEnc, reserved, hsot, heot, hb], hx⟩

theorem Canonical.exists_escEncSeq {x : List Byte} (h : Canonical x) : ∃ y, x = escEncSeq y :=
  match x, h with
  | [], _ => ⟨[], rfl⟩
  | b :: x, h => by
    obtain ⟨v, z, hx, hz⟩ := h.exists_escEnc_append
    have hlen : z.length < x.length + 1 := by
      rw [← List.length_cons (a := b), hx, List.length_append, escEnc_length]; omega
    obtain ⟨y, rfl⟩ := hz.exists_escEncSeq
    exact ⟨v :: y, hx⟩
  termination_by x.length

theorem canonical_escEnc_append (v : Byte) {z : List Byte} (hz : Canonical z) : Canonical (escEnc v ++ z) := by
  rcases escEnc_cases v with ⟨-, h⟩ | ⟨-, h⟩ | ⟨-, h⟩ | ⟨hsot, heot, hsoe, h⟩ <;> rw [h]
  iterate 3 · simp [canonical_cons, EndsPair, SOT, EOT, SOE, hz]
  · simp [canonical_cons, hsot, heot, hsoe, hz]

theorem canonical_escEncSeq (y : List Byte) : Canonical (escEncSeq y) := by
  induction y with
  | nil => exact canonical_nil
  | cons v y ih => exact canonical_escEnc_append v ih

/-- The two descriptions of canonical input agree (R86). -/
theorem exists_eq_escEncSeq_iff (x : List Byte) : (∃ y, x = escEncSeq y) ↔ Canonical x :=
  ⟨fun ⟨y, hy⟩ => hy ▸ canonical_escEncSeq y, Canonical.exists_escEncSeq⟩

theorem escEncSeq_escDecSeq_iff (x : List Byte) : escEncSeq (escDecSeq x) = x ↔ ∃ y, x = escEncSeq y := by
  constructor
  · intro h
    exact ⟨escDecSeq x, h.symm⟩
  · rintro ⟨y, rfl⟩
    rw [escDecSeq_escEncSeq]

/-- Settles O40: an escaped sequence is de-escaped to what it came from, and a canonical one is taken apart escaped byte by
escaped byte. -/
theorem escapingUndoesDeescapingOnlyOnCanonicalInput : Obligations.EscapingUndoesDeescapingOnlyOnCanonicalInput :=
  ⟨escEncSeq_escDecSeq_iff, exists_eq_escEncSeq_iff, fun _ _ h => escEncSeq_injective h,
    by decide, by decide, by decide, by decide⟩

/-- Settles O38. -/
theorem deescapingUndoesEscaping : Obligations.DeescapingUndoesEscaping := escDecSeq_escEncSeq

theorem sot_not_mem_escEncSeq (y : List Byte) : SOT ∉ escEncSeq y := (canonical_escEncSeq y).1

theorem eot_not_mem_escEncSeq (y : List Byte) : EOT ∉ escEncSeq y := (canonical_escEncSeq y).2.1

/-- Settles O39: what escaping gives is canonical, and a telegram is an escaped body between its delimiters. -/
theorem escapedBytesHoldNoDelimiter : Obligations.EscapedBytesHoldNoDelimiter :=
  ⟨canonical_escEncSeq, fun _ _ _ _ _ => ⟨_, rfl, sot_not_mem_escEncSeq _, eot_not_mem_escEncSeq _⟩⟩

end Sys2Proof.Machine

/-! Laws of the checksum (spec 40_crc.md section 5). -/

namespace Sys2Proof.Machine

/-! ### Appending and continuing -/

theorem crcVerify_eq_true_iff (x : List Byte) : crcVerify x = true ↔ crcCompute x = 0x0000#16 := by
  simp [crcVerify]

theorem crcCompute_append (x y : List Byte) : crcCompute (x ++ y) = crcFrom (crcCompute x) y :=
  crcFrom_append CRC_INIT x y

/-- A word at the end of a sequence is xored to the running value, and the turns that follow lose nothing. -/
theorem crcVerify_append_be16 (x : List Byte) (w : Word16) : crcVerify (x ++ be16 w) = true ↔ w = crcCompute x := by
  rw [crcVerify_eq_true_iff, crcCompute_append, crcFrom_be16]
  constructor
  · intro h
    exact (BitVec.xor_eq_zero_iff.1 (crcShifts_eq_zero h)).symm
  · rintro rfl
    rw [BitVec.xor_self, crcShifts_zero]

@[simp] theorem crcVerify_withChecksum (content : List Byte) : crcVerify (withChecksum content) = true :=
  (crcVerify_append_be16 content _).2 rfl

/-- Settles O34. -/
theorem onlyTheComputedChecksumVerifies : Obligations.OnlyTheComputedChecksumVerifies := crcVerify_append_be16

/-- Settles O33. -/
theorem appendedChecksumVerifies : Obligations.AppendedChecksumVerifies := crcVerify_withChecksum

theorem crcCompute_zeros (n : Nat) : crcCompute (List.replicate n 0x00#8) = 0x0000#16 := by
  rw [crcCompute]
  induction n with
  | zero => rfl
  | succ n ih => simpa [List.replicate_succ, crcFrom] using ih

theorem crcCompute_zeros_append (n : Nat) (x : List Byte) :
    crcCompute (List.replicate n 0x00#8 ++ x) = crcCompute x := by
  rw [crcCompute_append, crcCompute_zeros, crcCompute]

/-- Settles O35: both parts are the continuation of a checksum, from 0 after zeros alone. -/
theorem checksumIsIncremental : Obligations.ChecksumIsIncremental :=
  ⟨crcCompute_zeros_append, fun x y => by rw [crcCompute_append, crcFrom_eq_foldl]⟩

/-! ### Linearity -/

theorem crcFrom_xor (c d : Word16) {x y : List Byte} (h : x.length = y.length) :
    crcFrom (c ^^^ d) (List.zipWith (· ^^^ ·) x y) = crcFrom c x ^^^ crcFrom d y := by
  induction x generalizing c d y with
  | nil =>
    obtain rfl : y = [] := List.length_eq_zero_iff.1 h.symm
    rfl
  | cons a x ih =>
    obtain ⟨b, y, rfl⟩ := List.exists_cons_of_length_eq_add_one h.symm
    simp only [List.zipWith_cons_cons, crcFrom, crcStep_xor]
    exact ih _ _ (Nat.succ.inj h)

/-- Settles O36: the fold is linear step by step, from 0 = 0 xor 0. -/
theorem checksumIsLinear : Obligations.ChecksumIsLinear :=
  fun _ _ h => crcFrom_xor CRC_INIT CRC_INIT h

/-! ### Bursts of errors -/

theorem be16_append (a b : Byte) : be16 (a ++ b) = [a, b] := by
  simp only [be16, hi8, lo8, List.cons.injEq, and_true]
  constructor <;> ext i hi <;> simp only [BitVec.getElem_extractLsb'] <;> grind

/-- Two bytes verify only if they are zero: they are their own checksum's ending of the empty sequence. -/
theorem crcVerify_pair (a b : Byte) : crcVerify [a, b] = true ↔ [a, b] = [0x00#8, 0x00#8] := by
  have h := crcVerify_append_be16 [] (a ++ b)
  rw [List.nil_append, be16_append] at h
  rw [h]
  constructor
  · intro h0
    rw [← be16_append, h0]
    rfl
  · intro h0
    obtain ⟨rfl, rfl⟩ : a = 0x00#8 ∧ b = 0x00#8 := by simpa using h0
    rfl

/-- A verified sequence of at most two bytes is zero; a single byte counts as two, for a leading zero changes nothing. -/
theorem eq_zeros_of_crcVerify {x : List Byte} (hv : crcVerify x = true) (hlen : x.length ≤ 2) :
    x = List.replicate x.length 0x00#8 := by
  match x, hlen with
  | [], _ => rfl
  | [a], _ =>
    have h0a : crcVerify [0x00#8, a] = true := by
      rw [crcVerify_eq_true_iff] at hv ⊢
      exact (crcCompute_zeros_append 1 [a]).trans hv
    have := (crcVerify_pair _ _).1 h0a
    simp_all
  | [a, b], _ => exact (crcVerify_pair a b).1 hv

theorem crcShifts_add (m n : Nat) (r : Word16) : crcShifts (m + n) r = crcShifts n (crcShifts m r) := by
  induction m generalizing r with
  | zero => rw [Nat.zero_add, crcShifts]
  | succ m ih => rw [Nat.succ_add, crcShifts, crcShifts, ih]

/-- While no set bit is shifted out, the turns of the loop are shifts. -/
theorem crcShifts_eq_shiftLeft {n : Nat} (hn : n ≤ 16) {r : Word16} (h : ∀ i, 16 ≤ i + n → r.getLsbD i = false) :
    crcShifts n r = r <<< n := by
  induction n generalizing r with
  | zero => rw [crcShifts, BitVec.shiftLeft_zero]
  | succ n ih =>
    have hshift : crcShift r = r <<< 1 := by
      simp only [crcShift, h 15 (by omega), Bool.false_eq_true, if_false]
    rw [crcShifts, hshift, ih (by omega), ← BitVec.shiftLeft_add, Nat.add_comm]
    intro i hi
    simp [h (i - 1) (by omega)]

/-- A word shifted left by at most 8 bits in three bytes: the running value has taken `k` turns more than at the word's own place. -/
theorem crcCompute_burst (w : Word16) {k : Nat} (hk : k ≤ 8) :
    crcCompute [(w.setWidth 24 <<< k).extractLsb' 16 8, (w.setWidth 24 <<< k).extractLsb' 8 8,
      (w.setWidth 24 <<< k).extractLsb' 0 8] = crcShifts 16 (crcShifts k w) := by
  generalize hv : w.setWidth 24 <<< k = v
  have hbytes : [v.extractLsb' 16 8, v.extractLsb' 8 8, v.extractLsb' 0 8] =
      [v.extractLsb' 16 8] ++ be16 (w <<< k) := by
    simp only [be16, hi8, lo8, List.cons_append, List.nil_append, List.cons.injEq, and_true, true_and]
    constructor <;> ext i hi <;>
      simp only [← hv, BitVec.getElem_extractLsb', BitVec.getLsbD_shiftLeft, BitVec.getLsbD_setWidth] <;> grind
  have hhigh : crcCompute [v.extractLsb' 16 8] =
      crcShifts k ((v.extractLsb' 16 8).setWidth 16 <<< 8 <<< (8 - k)) := by
    have hstep : crcCompute [v.extractLsb' 16 8] = crcShifts (8 - k + k) ((v.extractLsb' 16 8).setWidth 16 <<< 8) := by
      rw [Nat.sub_add_cancel hk, crcCompute, crcFrom, crcFrom, crcStep, BitVec.zero_xor]
    rw [hstep, crcShifts_add, crcShifts_eq_shiftLeft (n := 8 - k) (by omega)]
    intro i hi
    simp only [← hv, BitVec.getLsbD_shiftLeft, BitVec.getLsbD_setWidth, BitVec.getLsbD_extractLsb']
    grind
  have hrest : w <<< k = crcShifts k (w <<< k >>> k) := by
    rw [crcShifts_eq_shiftLeft (by omega)]
    · ext i hi
      simp only [BitVec.getElem_shiftLeft, BitVec.getElem_ushiftRight, BitVec.getLsbD_shiftLeft]
      grind
    · intro i hi
      simp only [BitVec.getLsbD_ushiftRight, BitVec.getLsbD_shiftLeft]
      grind
  have hjoin : (v.extractLsb' 16 8).setWidth 16 <<< 8 <<< (8 - k) ^^^ (w <<< k >>> k) = w := by
    ext i hi
    simp only [← hv, BitVec.getElem_xor, BitVec.getElem_shiftLeft, BitVec.getElem_setWidth,
      BitVec.getLsbD_extractLsb', BitVec.getLsbD_shiftLeft, BitVec.getLsbD_setWidth, BitVec.getElem_ushiftRight]
    grind
  rw [hbytes, crcCompute_append, crcFrom_be16, hhigh, hrest, ← crcShifts_xor, hjoin]

theorem crcFrom_zeros_eq_zero {c : Word16} {n : Nat} (h : crcFrom c (List.replicate n 0x00#8) = 0x0000#16) :
    c = 0x0000#16 := by
  induction n generalizing c with
  | zero => exact h
  | succ n ih =>
    have h0 : crcStep c 0x00#8 = 0x0000#16 := ih h
    simpa [crcStep] using crcShifts_eq_zero h0

/-- The checksum of a burst of errors is not zero, wherever the burst stands. -/
theorem crcCompute_burst_ne_zero (m n : Nat) {k : Nat} (hk : k ≤ 8) {w : Word16} (hw : w ≠ 0x0000#16) :
    crcCompute (List.replicate m 0x00#8 ++
      [(w.setWidth 24 <<< k).extractLsb' 16 8, (w.setWidth 24 <<< k).extractLsb' 8 8,
        (w.setWidth 24 <<< k).extractLsb' 0 8] ++ List.replicate n 0x00#8) ≠ 0x0000#16 := by
  intro h
  rw [crcCompute_append, crcCompute_zeros_append, crcCompute_burst w hk] at h
  exact hw (crcShifts_eq_zero (crcShifts_eq_zero (crcFrom_zeros_eq_zero h)))

/-- Settles O37: by linearity the damaged sequence's checksum is that of the burst. -/
theorem burstErrorsAreDetected : Obligations.BurstErrorsAreDetected := by
  constructor
  · intro x y hx hlen hxy hne
    cases hy : crcVerify y with
    | false => rfl
    | true =>
      have hx0 := eq_zeros_of_crcVerify hx hlen
      have hy0 := eq_zeros_of_crcVerify hy (hxy ▸ hlen)
      rw [hxy, ← hx0] at hy0
      exact absurd hy0 hne
  · intro x m n k w hx hw hk hlen
    rw [crcVerify_eq_true_iff] at hx
    rw [← Bool.not_eq_true, crcVerify_eq_true_iff, checksumIsLinear, hx, BitVec.zero_xor]
    · exact crcCompute_burst_ne_zero m n hk hw
    · simp [hlen]
      omega

end Sys2Proof.Machine

/-! ENC.FRAME's telegram: its bytes and its length on the wire, and how its fields come back out of it (spec 30_encoding.md R52, R53;
42_frame_encoder.md R90 to R92). -/

namespace Sys2Proof.Machine

/-! ### The payload that is carried -/

theorem carried_eq_ite (ty : Byte) (payload : List Byte) :
    carried ty payload = if ty = 0x05#8 ∨ ty = 0x06#8 ∨ ty = 0x07#8 ∨ ty = 0x09#8 then payload else [] := by
  simp [carried, writeClass, or_assoc]

theorem carried_of_wellFormedTelegram {ty : Byte} {payload : List Byte} (h : wellFormedTelegram ty payload = true) :
    carried ty payload = payload := by
  cases hw : writeClass ty <;> simp_all [wellFormedTelegram, carried]

/-! ### The bytes between the delimiters -/

theorem encFrame_eq (dest src ty reg : Byte) (payload : List Byte) :
    encFrame dest src ty reg payload = wireFrame (withChecksum ([dest, src, ty, reg] ++ carried ty payload)) := rfl

theorem wireFrame_getElem?_zero (body : List Byte) : (wireFrame body)[0]? = some SOT := rfl

theorem wireFrame_getElem?_last (body : List Byte) : (wireFrame body)[(wireFrame body).length - 1]? = some EOT := by
  rw [← List.getLast?_eq_getElem?, wireFrame, List.getLast?_concat]

theorem wireFrame_inner (body : List Byte) :
    ((wireFrame body).take ((wireFrame body).length - 1)).drop 1 = escEncSeq body := by
  rw [← List.dropLast_eq_take, wireFrame, List.dropLast_concat]
  rfl

/-- Neither delimiter stands strictly between the ends of a frame: those bytes are escaped ones (R85). -/
theorem wireFrame_getElem?_inner (body : List Byte) {j : Nat} (h0 : 0 < j) (hj : j < (wireFrame body).length - 1) :
    (wireFrame body)[j]? ≠ some SOT ∧ (wireFrame body)[j]? ≠ some EOT := by
  have hinner : (escEncSeq body)[j - 1]? = (wireFrame body)[j]? := by
    rw [← wireFrame_inner, List.getElem?_drop, List.getElem?_take, Nat.add_sub_cancel' h0, if_pos hj]
  rw [← hinner]
  exact ⟨fun h => sot_not_mem_escEncSeq body (List.mem_of_getElem? h),
    fun h => eot_not_mem_escEncSeq body (List.mem_of_getElem? h)⟩

theorem wireFrame_injective : Function.Injective wireFrame := by
  intro x y h
  apply escEncSeq_injective
  rw [← wireFrame_inner x, h, wireFrame_inner]

theorem withChecksum_injective : Function.Injective withChecksum :=
  fun _ _ h => List.append_inj_left' h rfl

/-! ### Lengths -/

theorem escEncSeq_length (y : List Byte) : (escEncSeq y).length = y.length + y.countP reserved := by
  induction y with
  | nil => rfl
  | cons v y ih =>
    simp only [escEncSeq, List.length_append, escEnc_length, ih, List.length_cons, List.countP_cons]
    omega

theorem wireFrame_length (body : List Byte) : (wireFrame body).length = 2 + body.length + body.countP reserved := by
  simp only [wireFrame, List.length_append, escEncSeq_length, List.length_cons, List.length_nil]
  omega

@[simp] theorem withChecksum_length (content : List Byte) : (withChecksum content).length = content.length + 2 := by
  simp [withChecksum, be16]

theorem txBody_length (dest src ty reg : Byte) (p : List Byte) :
    (withChecksum ([dest, src, ty, reg] ++ p)).length = 6 + p.length := by
  simp
  omega

theorem encFrame_length (dest src ty reg : Byte) (payload : List Byte) :
    (encFrame dest src ty reg payload).length = 2 + (6 + (carried ty payload).length) +
      (withChecksum ([dest, src, ty, reg] ++ carried ty payload)).countP reserved := by
  rw [encFrame_eq, wireFrame_length, txBody_length]

/-! ### The fields come back -/

/-- On well-formed telegrams ENC.FRAME is injective: escaping, the checksum's place and the header's are all undone (R92 (e)). -/
theorem encFrame_injective_of_wellFormed {d1 s1 t1 r1 d2 s2 t2 r2 : Byte} {p1 p2 : List Byte}
    (h1 : wellFormedTelegram t1 p1 = true) (h2 : wellFormedTelegram t2 p2 = true)
    (h : encFrame d1 s1 t1 r1 p1 = encFrame d2 s2 t2 r2 p2) : d1 = d2 ∧ s1 = s2 ∧ t1 = t2 ∧ r1 = r2 ∧ p1 = p2 := by
  rw [encFrame_eq, encFrame_eq, carried_of_wellFormedTelegram h1, carried_of_wellFormedTelegram h2] at h
  simpa using withChecksum_injective (wireFrame_injective h)

/-- Settles O42: the delimiters stand around an escaped body, which ends in its checksum and of which each byte is escaped to one or
two. -/
theorem encodedTelegramProperties : Obligations.EncodedTelegramProperties := by
  refine ⟨fun dest src ty reg payload => ?_, fun _ _ _ _ _ _ _ _ _ _ h1 h2 h => encFrame_injective_of_wellFormed h1 h2 h⟩
  rw [← carried_eq_ite]
  intro p t body
  have hlen : body.length = 6 + p.length := txBody_length dest src ty reg p
  have ht : t.length = 2 + body.length + body.countP reserved := wireFrame_length body
  have hcount : body.countP reserved ≤ body.length := List.countP_le_length
  refine ⟨wireFrame_getElem?_zero body, wireFrame_getElem?_last body, fun j => wireFrame_getElem?_inner body, ?_, hlen,
    crcVerify_withChecksum _, by omega, by omega⟩
  exact (congrArg escDecSeq (wireFrame_inner body)).trans (escDecSeq_escEncSeq body)

theorem encFrame_zeros_length : (encFrame 0x00#8 0x00#8 0x00#8 0x00#8 []).length = 8 := by
  have hcrc : crcCompute [0x00#8, 0x00#8, 0x00#8, 0x00#8] = 0x0000#16 := crcCompute_zeros 4
  change (wireFrame ([0x00#8, 0x00#8, 0x00#8, 0x00#8] ++ be16 (crcCompute [0x00#8, 0x00#8, 0x00#8, 0x00#8]))).length = 8
  rw [hcrc]
  rfl

/-- Settles O41: a telegram of zeros, which needs no escaping, has the least length, and a payload of `n` bytes more than `n`. -/
theorem telegramLengthOnTheWire : Obligations.TelegramLengthOnTheWire := by
  refine ⟨fun dest src ty reg payload => ?_, ⟨0x00#8, 0x00#8, 0x00#8, 0x00#8, [], encFrame_zeros_length⟩,
    fun n => ⟨0x02#8, 0x01#8, 0x05#8, 0x10#8, List.replicate n 0x00#8, ?_⟩⟩
  · intro p body
    have ht : (encFrame dest src ty reg payload).length = 2 + (6 + p.length) + body.countP reserved :=
      encFrame_length dest src ty reg payload
    exact ⟨txBody_length dest src ty reg p, ht, by omega⟩
  · have hc : carried 0x05#8 (List.replicate n 0x00#8) = List.replicate n 0x00#8 := rfl
    rw [encFrame_length, hc, List.length_replicate]
    omega

/-- Settles O30: R90's pseudocode is `encFrame` with the carried payload written out. -/
theorem encodingReturnsTheTelegram : Obligations.EncodingReturnsTheTelegram := by
  intro dest src ty reg payload s
  rw [exec_encFrame, encFrame_eq, carried_eq_ite]
  rfl

/-! ### TELEGRAM.TX -/

/-- A well-formed TELEGRAM.TX carries all of its payload and ends in the checksum of its content. -/
theorem wellFormed_telegramTx_iff (dest src ty reg : Byte) (payload : List Byte) (hi lo : Byte) :
    wellFormed (.telegramTx dest src ty reg payload hi lo) = true ↔
      wellFormedTelegram ty payload = true ∧ [hi, lo] = be16 (crcCompute ([dest, src, ty, reg] ++ payload)) := by
  rw [wellFormed, Bool.and_eq_true, beq_iff_eq, txContent_eq]

theorem exec_telegramTx (dest src ty reg : Byte) (payload : List Byte) (hi lo : Byte) (s : State) :
    exec (.telegramTx dest src ty reg payload hi lo) s =
      .next (chanWrite (wireFrame ([dest, src, ty, reg] ++ payload ++ [hi, lo])) s) := rfl

theorem encode_telegramTx (dest src ty reg : Byte) (payload : List Byte) (hi lo : Byte) :
    encode (.telegramTx dest src ty reg payload hi lo) =
      some (wireFrame ([dest, src, ty, reg] ++ payload ++ [hi, lo])) := rfl

/-- Settles O23. -/
theorem telegramIsWrittenOnce : Obligations.TelegramIsWrittenOnce := by
  intro dest src ty reg payload hi lo s
  refine ⟨exec_telegramTx dest src ty reg payload hi lo s, fun hw => ?_⟩
  obtain ⟨hp, hcrc⟩ := (wellFormed_telegramTx_iff dest src ty reg payload hi lo).1 hw
  rw [encode_telegramTx, encFrame_eq, carried_of_wellFormedTelegram hp, withChecksum, ← hcrc]

/-- Settles O32: the two halves of a word are its quotient and remainder by 256. -/
theorem checksumFieldIsBigEndian : Obligations.ChecksumFieldIsBigEndian := by
  intro w
  refine ⟨hi8 w, lo8 w, rfl, ?_⟩
  simp only [hi8, lo8, BitVec.extractLsb'_toNat, Nat.shiftRight_eq_div_pow]
  omega

end Sys2Proof.Machine

/-! The decoder and the encoder (spec 30_encoding.md sections 1 to 5): each format decoded item by item, and the round trip both ways. -/

namespace Sys2Proof

open Machine

/-! ### Wire bytes, pairs and type codes -/

theorem decodeWire_of_not_reserved {v : Byte} (h : reserved v = false) : decodeWire v = .data v := by
  simp_all [reserved, decodeWire]

theorem decodeWire_spec (b : Byte) :
    wellFormed (decodeWire b) = true ∧ formatOf (decodeWire b) = .wireByte ∧ encode (decodeWire b) = some [b] := by
  cases hr : reserved b with
  | false =>
    rw [decodeWire_of_not_reserved hr]
    exact ⟨by rw [wellFormed, hr]; rfl, rfl, rfl⟩
  | true =>
    have hb : b = SOT ∨ b = EOT ∨ b = SOE := by
      simpa only [reserved, Bool.or_eq_true, beq_iff_eq, or_assoc] using hr
    rcases hb with rfl | rfl | rfl <;> exact ⟨rfl, rfl, rfl⟩

theorem decodePair_of_wellFormed {c : Byte} (h : wellFormed (.escAny c) = true) : decodePair SOE c = .ok (.escAny c) := by
  simp_all [wellFormed, pairSecond, decodePair]

theorem decodePair_spec {a c : Byte} {i : Instr} (h : decodePair a c = .ok i) :
    wellFormed i = true ∧ formatOf i = .escapePair ∧ encode i = some [a, c] := by
  by_cases ha : a = SOE
  · subst ha
    cases hw : wellFormed (.escAny c) with
    | true =>
      rw [decodePair_of_wellFormed hw] at h
      exact Except.ok.inj h ▸ ⟨hw, rfl, rfl⟩
    | false =>
      have hc : c = 0x4D#8 ∨ c = 0x4A#8 ∨ c = 0x9E#8 ∨ c = EOT := by
        simpa only [wellFormed, pairSecond, Bool.and_eq_false_iff, Bool.not_eq_false', Bool.or_eq_true, beq_iff_eq,
          bne_eq_false_iff_eq, or_assoc] using hw
      rcases hc with rfl | rfl | rfl | rfl <;> cases h <;> exact ⟨rfl, rfl, rfl⟩
  · rw [decodePair, if_pos ha] at h
    cases h

theorem decodeType_of_wellFormed {t : Byte} (h : wellFormed (.typeUnlisted t) = true) :
    decodeType t = .typeUnlisted t := by
  simp_all [wellFormed, listedTypes, decodeType]

theorem decodeType_spec (t : Byte) :
    wellFormed (decodeType t) = true ∧ formatOf (decodeType t) = .typeCode ∧ encode (decodeType t) = some [t] := by
  by_cases hl : t ∈ listedTypes
  · revert t
    decide
  · have hw : wellFormed (.typeUnlisted t) = true := by simpa [wellFormed] using hl
    rw [decodeType_of_wellFormed hw]
    exact ⟨hw, rfl, rfl⟩

/-! ### Telegrams and bodies -/

/-- The delimiters are taken off and the escaping undone: what is between is canonical. -/
theorem decodeTelegram_wireFrame (body : List Byte) : decodeTelegram (wireFrame body) = decodeTxBody layout body := by
  have hcanon : decodeTxEscaped (escEncSeq body) = decodeTxBody layout body := by
    rw [decodeTxEscaped, escDecSeq_escEncSeq, if_pos rfl]
  simp [wireFrame, decodeTelegram, hcanon]

/-- What is decoded as a telegram is the frame of a telegram's body. -/
theorem decodeTelegram_eq_ok {bs : List Byte} {i : Instr} (h : decodeTelegram bs = .ok i) :
    ∃ body, bs = wireFrame body ∧ decodeTxBody layout body = .ok i := by
  cases bs with
  | nil => cases h
  | cons first rest =>
    simp only [decodeTelegram, decodeTxEscaped] at h
    split at h
    · cases h
    · next hfirst =>
      split at h
      · cases h
      · next hlast =>
        split at h
        · next hcanon =>
          obtain ⟨mid, rfl⟩ := List.getLast?_eq_some_iff.1 (Classical.not_not.1 hlast)
          rw [List.dropLast_concat] at hcanon h
          refine ⟨escDecSeq mid, ?_, h⟩
          rw [wireFrame, hcanon, Classical.not_not.1 hfirst]
          rfl
        · cases h

/-! ### The round trip -/

/-- Settles O3: in each format the operands are read back from where the encoder put them. -/
theorem decodeOfEncodeIsTheInstruction : Obligations.DecodeOfEncodeIsTheInstruction := by
  intro i bs hw he
  cases i <;> simp only [encode, Option.some.injEq, reduceCtorEq] at he <;> subst he
  case data v => exact congrArg _ (decodeWire_of_not_reserved (by simpa [wellFormed] using hw))
  case escAny c => exact decodePair_of_wellFormed hw
  case typeUnlisted t => exact congrArg _ (decodeType_of_wellFormed hw)
  case telegramTx => exact (decodeTelegram_wireFrame _).trans (decodeTxBody_body hw)
  case bodyRx => exact decodeRxBody_body _ _ _ _ _ _
  all_goals rfl

/-- Settles O4, format by format. -/
theorem encodeOfDecodeIsTheBytes : Obligations.EncodeOfDecodeIsTheBytes := by
  intro f bs i h
  unfold decode at h
  split at h
  · next b => exact Except.ok.inj h ▸ decodeWire_spec b
  · cases h
  · exact decodePair_spec h
  · cases h
  · next t => exact Except.ok.inj h ▸ decodeType_spec t
  · cases h
  · obtain ⟨body, rfl, hbody⟩ := decodeTelegram_eq_ok h
    obtain ⟨dest, src, ty, reg, payload, hi, lo, rfl, rfl, hw⟩ := decodeTxBody_eq_ok hbody
    exact ⟨hw, rfl, rfl⟩
  · obtain ⟨addr, ty, reg, payload, hi, lo, rfl, rfl⟩ := decodeRxBody_eq_ok h
    exact ⟨rfl, rfl, rfl⟩
  · cases h

/-- Settles O1. -/
theorem wireByteDecodesByItsClass : Obligations.WireByteDecodesByItsClass := by
  intro b
  refine ⟨?_, ?_, ?_, fun hsot heot hsoe => ?_, rfl⟩
  · rintro rfl; rfl
  · rintro rfl; rfl
  · rintro rfl; rfl
  · exact congrArg _ (decodeWire_of_not_reserved (by simp [reserved, hsot, heot, hsoe]))

/-- The checksum of the read command of scenario 1 (95_test_vectors.md X5). -/
theorem crcCompute_readCommand : crcCompute [0x02#8, 0x01#8, 0x04#8, 0x10#8] = 0x04AD#16 := by
  simp only [crcCompute, crcFrom,
    show crcStep 0x0000#16 0x02#8 = 0x2042#16 by decide,
    show crcStep 0x2042#16 0x01#8 = 0x7643#16 by decide,
    show crcStep 0x7643#16 0x04#8 = 0x1DD5#16 by decide,
    show crcStep 0x1DD5#16 0x10#8 = 0x04AD#16 by decide]

/-- Settles O2: the words that hold no checksum are decoded by computation; the telegram is the frame of a well-formed body. -/
theorem writtenOutWordsDecode : Obligations.WrittenOutWordsDecode := by
  refine ⟨by decide, by decide, by decide, by decide, by decide, by decide, by decide, by decide, by decide, by decide,
    ?_, by decide⟩
  have hw : wellFormed (.telegramTx 0x02#8 0x01#8 0x04#8 0x10#8 [] 0x04#8 0xAD#8) = true := by
    rw [wellFormed_telegramTx_iff, List.append_nil, crcCompute_readCommand]
    decide
  have hdecode := decodeOfEncodeIsTheInstruction _ _ hw (encode_telegramTx ..)
  exact congrArg Except.toOption hdecode

end Sys2Proof

/-! The receiver, rule by rule (spec 43_receiver.md sections 2 to 4): the arrival of a byte, of an escape pair, and of a whole frame. -/

namespace Sys2Proof.Machine

/-! ### The three cases of R108 to R110 -/

theorem rxDeescape_eq_marker {s : State} (h : s.escPending = false) : rxDeescape SOE s = { s with escPending := true } := by
  simp [rxDeescape, h]

theorem rxDeescape_eq_plain {b : Byte} {s : State} (h : s.escPending = false) (hb : b ≠ SOE) :
    rxDeescape b s = { s with body := s.body ++ [b] } := by
  simp [rxDeescape, h, escDecStep_plain hb]

theorem rxDeescape_eq_escaped (b : Byte) {s : State} (h : s.escPending = true) :
    rxDeescape b s = { s with body := s.body ++ [b - ECC], escPending := false } := by
  simp [rxDeescape, h]

theorem ofNat_sub_ecc (b : Byte) : BitVec.ofNat 8 ((b.toNat + 256 - 0x40) % 256) = b - ECC := by
  bv_omega

theorem rxByte_eot {s : State} (h : s.rxState = .huntingEnd) : rxByte EOT s = .next (rxClose s) := by
  rw [rxByte_end h, if_pos rfl]

/-- RX.CLOSE as R107 writes it: length, then checksum, then content. -/
theorem rxClose_eq (s : State) :
    rxClose s =
      if s.body.length < 5 then { s with rxState := .tooShort }
      else if crcCompute s.body ≠ 0x0000#16 then { s with rxState := .checksumInvalid }
      else if s.body[0]? ≠ some s.expAddr ∨ s.body[1]? ≠ some s.expType ∨ s.body[2]? ≠ some s.expReg then
        { s with rxState := .contentMismatch }
      else { s with payload := (s.body.take (s.body.length - 2)).drop 3, rxState := .ready } := by
  rcases rxClose_cases s with ⟨hlen, h⟩ | ⟨hlen, hcrc, h⟩ | ⟨hlen, hcrc, hhdr, h⟩ | ⟨hlen, hcrc, ha, ht, hr, h⟩ <;> rw [h]
  · rw [if_pos hlen]
  · rw [if_neg (by omega), if_pos hcrc]
  · rw [if_neg (by omega), if_neg (Classical.not_not.2 hcrc), if_pos]
    simpa only [Classical.not_and_iff_not_or_not] using hhdr
  · rw [if_neg (by omega), if_neg (Classical.not_not.2 hcrc), if_neg]
    simp only [ha, ht, hr, ne_eq, not_true_eq_false, or_self, not_false_eq_true]

/-- A body long enough for a checksum is closed by checksum, then content. -/
theorem rxClose_of_long {s : State} (h : 5 ≤ s.body.length) :
    rxClose s =
      if crcCompute s.body ≠ 0x0000#16 then { s with rxState := .checksumInvalid }
      else if s.body[0]? ≠ some s.expAddr ∨ s.body[1]? ≠ some s.expType ∨ s.body[2]? ≠ some s.expReg then
        { s with rxState := .contentMismatch }
      else { s with payload := (s.body.take (s.body.length - 2)).drop 3, rxState := .ready } := by
  rw [rxClose_eq, if_neg (by omega)]

/-! ### One byte -/

/-- Settles O9. -/
theorem terminalStatesHaveNoStep : Obligations.TerminalStatesHaveNoStep := by
  intro s hs
  refine ⟨fun i b hb => ?_, rxFail_terminal hs, rxFail_terminal hs, fun a t r => ⟨_, exec_rxStart a t r s, rfl⟩⟩
  rw [exec_arrivalByte hb, rxByte_terminal hs]

/-- Settles O10. -/
theorem huntingStartDiscardsEveryByteButSot : Obligations.HuntingStartDiscardsEveryByteButSot := by
  intro i b s hi hs hb
  rw [exec_arrivalByte hi, rxByte_start hs, if_neg hb]

/-- Settles O11. -/
theorem sotOpensAFrame : Obligations.SotOpensAFrame := by
  intro i s hi hs
  rw [exec_arrivalByte hi, rxByte_start hs, if_pos rfl, rxOpenFrame]

/-- Settles O12. -/
theorem eotClosesTheFrame : Obligations.EotClosesTheFrame := by
  intro i s hi hs
  rw [exec_arrivalByte hi, rxByte_eot hs, rxClose_eq]

/-- Settles O13. -/
theorem soeSetsEscapePending : Obligations.SoeSetsEscapePending := by
  intro i s hi hs hp
  rw [exec_arrivalByte hi, rxByte_end hs, if_neg soe_ne_eot, rxDeescape_eq_marker hp]

/-- Settles O14. -/
theorem plainDataByteIsAppended : Obligations.PlainDataByteIsAppended := by
  intro i b s hi hs hp heot hsoe
  rw [exec_arrivalByte hi, rxByte_end hs, if_neg heot, rxDeescape_eq_plain hp hsoe]

/-- Settles O15. -/
theorem escapedDataByteIsAppendedLessEcc : Obligations.EscapedDataByteIsAppendedLessEcc := by
  intro i b s hi hs hp heot
  rw [exec_arrivalByte hi, rxByte_end hs, if_neg heot, rxDeescape_eq_escaped b hp, ofNat_sub_ecc]

/-! ### The two bytes of an escape pair -/

theorem rxBytes_cons {b : Byte} {bs : List Byte} {s t : State} (h : rxByte b s = .next t) :
    rxBytes (b :: bs) s = rxBytes bs t := by
  rw [rxBytes, h]

theorem rxBytes_cons_terminal {b : Byte} {bs : List Byte} {s : State} (h : s.rxState.hunting = false) :
    rxBytes (b :: bs) s = .fault .noStep := by
  rw [rxBytes, rxByte_terminal h]

/-- In `HuntingStart` the first byte of a pair is discarded, and the second is taken on its own. -/
theorem rxBytes_pair_start (c : Byte) {s : State} (h : s.rxState = .huntingStart) :
    rxBytes [SOE, c] s = .next (if c = SOT then rxOpenFrame s else s) := by
  have hsoe : rxByte SOE s = .next s := by rw [rxByte_start h, if_neg soe_ne_sot]
  rw [rxBytes_cons hsoe, rxBytes_one, rxByte_start h]

theorem rxBytes_pair_end {c : Byte} {s : State} (h : s.rxState = .huntingEnd) (hp : s.escPending = false) (hc : c ≠ EOT) :
    rxBytes [SOE, c] s = .next { s with body := s.body ++ [c - ECC] } := by
  have hpair : escDecFrom false [SOE, c] = (false, [c - ECC]) := by simp [escDecFrom]
  rw [rxBytes_inFrame _ h (by simp [hc.symm]), hp, hpair]

/-- With an escape pending the pair's 0x5E is data, and its second byte is taken with none pending. -/
theorem rxBytes_pair_pending {c : Byte} {s : State} (h : s.rxState = .huntingEnd) (hp : s.escPending = true) (hc : c ≠ EOT) :
    rxBytes [SOE, c] s = .next { s with
      body := s.body ++ 0x1E#8 :: (escDecStep false c).2.toList, escPending := (escDecStep false c).1 } := by
  rw [rxBytes_inFrame _ h (by simp [hc.symm]), hp]
  simp [escDecFrom, show SOE - ECC = 0x1E#8 from rfl]

theorem exec_escAny (c : Byte) (s : State) : exec (.escAny c) s = rxBytes [SOE, c] s := rfl

/-- Settles O20. -/
theorem escapePairInAFrameAppendsOneByte : Obligations.EscapePairInAFrameAppendsOneByte :=
  fun _ hs hp => ⟨rxBytes_pair_end hs hp (by decide), rxBytes_pair_end hs hp (by decide),
    rxBytes_pair_end hs hp (by decide), fun _ hc => rxBytes_pair_end hs hp hc⟩

/-- Settles O21. -/
theorem escapePairElsewhere : Obligations.EscapePairElsewhere := by
  refine fun s => ⟨fun hs => ?_, fun hs hp => ?_, fun hs => ?_⟩
  · exact ⟨rxBytes_pair_start _ hs, rxBytes_pair_start _ hs, rxBytes_pair_start _ hs, rxBytes_pair_start _ hs,
      fun c hc => (rxBytes_pair_start c hs).trans (by rw [if_neg hc])⟩
  · refine ⟨rxBytes_pair_pending hs hp (by decide), rxBytes_pair_pending hs hp (by decide),
      rxBytes_pair_pending hs hp (by decide), rxBytes_pair_pending hs hp (by decide), fun c heot hsoe => ?_⟩
    rw [exec_escAny, rxBytes_pair_pending hs hp heot, escDecStep_plain hsoe]
    rfl
  · exact ⟨rxBytes_cons_terminal hs, rxBytes_cons_terminal hs, rxBytes_cons_terminal hs,
      fun _ => rxBytes_cons_terminal hs⟩

/-! ### A whole frame -/

/-- In `HuntingStart` bytes before the first SOT have no effect (R119 (a)). -/
theorem rxBytes_noise {noise : List Byte} {s : State} (hs : s.rxState = .huntingStart) (h : SOT ∉ noise) :
    rxBytes noise s = .next s := by
  induction noise with
  | nil => rfl
  | cons b noise ih =>
    obtain ⟨hb, hnoise⟩ : SOT ≠ b ∧ SOT ∉ noise := by simpa using h
    have hdiscard : rxByte b s = .next s := by rw [rxByte_start hs, if_neg hb.symm]
    rw [rxBytes_cons hdiscard, ih hnoise]

/-- The receiver in an open frame, with `mid` read since its SOT. -/
def inFrame (mid : List Byte) (s : State) : State :=
  { s with rxState := .huntingEnd, escPending := (escDecFrom false mid).1, body := escDecSeq mid }

theorem inFrame_escEncSeq (body : List Byte) (s : State) :
    inFrame (escEncSeq body) s = { s with rxState := .huntingEnd, escPending := false, body := body } := by
  rw [inFrame, escDecSeq_escEncSeq, escDecFrom_escEncSeq]

/-- Noise, the SOT, and bytes without an EOT leave an open frame with the de-escaped bytes as its body. -/
theorem rxBytes_open {noise mid : List Byte} {s : State} (hs : s.rxState = .huntingStart) (hnoise : SOT ∉ noise)
    (hmid : EOT ∉ mid) : rxBytes (noise ++ [SOT] ++ mid) s = .next (inFrame mid s) := by
  have hsot : rxByte SOT s = .next (rxOpenFrame s) := by rw [rxByte_start hs, if_pos rfl]
  rw [List.append_assoc, rxBytes_append _ _ (rxBytes_noise hs hnoise), List.singleton_append, rxBytes_cons hsot,
    rxBytes_inFrame mid rfl hmid]
  rfl

/-- The first EOT after the SOT closes the frame (R119 (b)). -/
theorem rxBytes_closed {noise mid : List Byte} {s : State} (hs : s.rxState = .huntingStart) (hnoise : SOT ∉ noise)
    (hmid : EOT ∉ mid) : rxBytes (noise ++ [SOT] ++ mid ++ [EOT]) s = .next (rxClose (inFrame mid s)) := by
  rw [rxBytes_append _ _ (rxBytes_open hs hnoise hmid), rxBytes_one, rxByte_eot rfl]

theorem rxBytes_wireFrame_start (body : List Byte) {s : State} (hs : s.rxState = .huntingStart) :
    rxBytes (wireFrame body) s =
      .next (rxClose { s with rxState := .huntingEnd, escPending := false, body := body }) := by
  rw [← inFrame_escEncSeq]
  exact rxBytes_closed (noise := []) hs List.not_mem_nil (eot_not_mem_escEncSeq body)

/-- Inside a frame the SOT is data, and it clears a pending escape. -/
theorem rxDeescape_sot (s : State) :
    rxDeescape SOT s = { s with
      escPending := false, body := s.body ++ [if s.escPending then 0xCD#8 else 0x0D#8] } := by
  cases hp : s.escPending
  · rw [rxDeescape_eq_plain hp sot_ne_soe, ← hp]
    simp [hp]
  · rw [rxDeescape_eq_escaped SOT hp]
    rfl

theorem rxBytes_wireFrame_end (body : List Byte) {s : State} (hs : s.rxState = .huntingEnd) :
    rxBytes (wireFrame body) s = .next (rxClose { s with
      escPending := false, body := s.body ++ [if s.escPending then 0xCD#8 else 0x0D#8] ++ body }) := by
  have hsot : rxByte SOT s = .next (rxDeescape SOT s) := by rw [rxByte_end hs, if_neg sot_ne_eot]
  have hbody := rxBytes_inFrame (s := rxDeescape SOT s) (escEncSeq body) hs (eot_not_mem_escEncSeq body)
  rw [wireFrame, List.append_assoc, List.singleton_append, rxBytes_cons hsot, rxBytes_append _ _ hbody, rxBytes_one,
    rxByte_eot]
  · rw [rxDeescape_sot, escDecFrom_escEncSeq]
  · exact hs

theorem exec_bodyRx (addr ty reg : Byte) (payload : List Byte) (hi lo : Byte) (s : State) :
    exec (.bodyRx addr ty reg payload hi lo) s = rxBytes (wireFrame ([addr, ty, reg] ++ payload ++ [hi, lo])) s := rfl

theorem five_le_length_append_rxBody (before : List Byte) (addr ty reg : Byte) (payload : List Byte) (hi lo : Byte) :
    5 ≤ (before ++ ([addr, ty, reg] ++ payload ++ [hi, lo])).length := by
  simp only [List.length_append, List.length_cons]
  omega

/-- Settles O24: the frame's bytes open it, fill it with the body and close it, on at least five bytes. -/
theorem receivedBodyIsClassified : Obligations.ReceivedBodyIsClassified := by
  intro addr ty reg payload hi lo s hs
  rw [exec_bodyRx, rxBytes_wireFrame_start _ hs, rxClose_of_long (five_le_length_append_rxBody [] addr ty reg payload hi lo)]
  simp

/-- Settles O25: inside a frame the same bytes are de-escaped after what the body holds. -/
theorem receivedBodyElsewhere : Obligations.ReceivedBodyElsewhere := by
  intro addr ty reg payload hi lo s
  refine ⟨fun hs => ?_, rxBytes_cons_terminal⟩
  rw [exec_bodyRx, rxBytes_wireFrame_end _ hs, rxClose_of_long (five_le_length_append_rxBody _ addr ty reg payload hi lo)]
  simp

end Sys2Proof.Machine

/-! The pure operations and the type codes (spec 30_encoding.md section 4; 40_crc.md, 41_escape_codec.md): what each returns. -/

namespace Sys2Proof.Machine

/-! ### The checksum -/

theorem crcShifts_eq_foldl (n : Nat) (r : Word16) :
    crcShifts n r = (List.range n).foldl (fun r _ => crcShift r) r := by
  induction n with
  | zero => rfl
  | succ n ih =>
    rw [crcShifts_add n 1, ih, List.range_succ, List.foldl_append]
    rfl

/-- Settles O26: the turns of the loop are a fold of `crcShift`, which is written out in the statement. -/
theorem crcStepIsTheShiftRegister : Obligations.CrcStepIsTheShiftRegister := by
  refine ⟨fun c b s => ?_, by decide, by decide, by decide, by decide, by decide, by decide⟩
  exact congrArg (fun w => Host.Outcome.next (returns (.word w) s)) (crcShifts_eq_foldl 8 _)

/-- Settles O27. -/
theorem crcComputeFoldsAndVerifyTestsZero : Obligations.CrcComputeFoldsAndVerifyTestsZero := by
  intro bytes s
  rw [← crcFrom_eq_foldl]
  exact ⟨rfl, rfl⟩

/-! ### The escape codec -/

theorem escEnc_eq_ite (v : Byte) :
    escEnc v = if v = 0x0D#8 ∨ v = 0x0A#8 ∨ v = 0x5E#8 then [0x5E#8, v + 0x40#8] else [v] := by
  simp [escEnc, reserved, or_assoc]

theorem escEncSeq_eq_flatMap (bytes : List Byte) : escEncSeq bytes = bytes.flatMap escEnc := by
  induction bytes with
  | nil => rfl
  | cons v bytes ih => rw [escEncSeq, ih, List.flatMap_cons]

/-- Settles O28. -/
theorem escapingReturnsThePairs : Obligations.EscapingReturnsThePairs := by
  constructor
  · intro v s
    rw [← escEnc_eq_ite]
    rfl
  · intro bytes s
    simp only [← escEnc_eq_ite, ← escEncSeq_eq_flatMap]
    rfl

/-- One step of the fold of R83: the flag, and the bytes put out so far. -/
def decFoldStep (q : Bool × List Byte) (b : Byte) : Bool × List Byte :=
  if b = 0x5E#8 ∧ q.1 = false then (true, q.2)
  else if q.1 = true then (false, q.2 ++ [b - 0x40#8])
  else (false, q.2 ++ [b])

theorem decFoldStep_eq (q : Bool × List Byte) (b : Byte) :
    decFoldStep q b = ((escDecStep q.1 b).1, q.2 ++ (escDecStep q.1 b).2.toList) := by
  unfold decFoldStep escDecStep
  split
  · rw [Option.toList_none, List.append_nil]
  · split <;> rfl

theorem foldl_decFoldStep (bytes : List Byte) (q : Bool × List Byte) :
    bytes.foldl decFoldStep q = ((escDecFrom q.1 bytes).1, q.2 ++ (escDecFrom q.1 bytes).2) := by
  induction bytes generalizing q with
  | nil => simp [escDecFrom]
  | cons b bytes ih => simp [ih, decFoldStep_eq, escDecFrom]

/-- Settles O29: the three cases of R82, and the fold with its output gathered at the end instead of at the front. -/
theorem deescapingReturnsTheBytes : Obligations.DeescapingReturnsTheBytes := by
  constructor
  · intro p b s
    change Host.Outcome.next (returns (.decStep (escDecStep p b).1 (escDecStep p b).2) s) = _
    unfold escDecStep
    split
    · rfl
    · split <;> rfl
  · intro bytes s
    have hfold : (bytes.foldl decFoldStep (false, [])).2 = escDecSeq bytes := by
      rw [foldl_decFoldStep, escDecSeq, List.nil_append]
    exact congrArg (fun bs => Host.Outcome.next (returns (.bytes bs) s)) hfold.symm

/-! ### Type codes -/

/-- The codes without a name: none of them is listed (R60). -/
theorem not_mem_listedTypes {t : Byte} (hlo : 0x0A#8 ≤ t) (hhi : t ≤ 0xFE#8) : t ∉ listedTypes := by
  have hlisted : ∀ u ∈ listedTypes, ¬(0x0A#8 ≤ u ∧ u ≤ 0xFE#8) := by decide
  exact fun ht => hlisted t ht ⟨hlo, hhi⟩

theorem writeClass_of_not_listed {t : Byte} (h : t ∉ listedTypes) : writeClass t = false := by
  rw [writeClass_eq_false_iff]
  refine ⟨?_, ?_, ?_, ?_⟩ <;> rintro rfl <;> exact h (by decide)

theorem wellFormed_typeUnlisted {t : Byte} (h : t ∉ listedTypes) : wellFormed (.typeUnlisted t) = true := by
  simpa [wellFormed] using h

theorem exec_typeUnlisted (t : Byte) (s : State) :
    exec (.typeUnlisted t) s = .next (returns (.typeCode t (writeClass t)) s) := rfl

/-- Settles O22. -/
theorem typeCodesAreClassified : Obligations.TypeCodesAreClassified := by
  refine fun s => ⟨rfl, rfl, rfl, rfl, rfl, rfl, rfl, rfl, rfl, rfl, rfl, fun t hlo hhi => ?_⟩
  have hl : t ∉ listedTypes := not_mem_listedTypes hlo hhi
  refine ⟨wellFormed_typeUnlisted hl, ?_⟩
  rw [exec_typeUnlisted, writeClass_of_not_listed hl]
  rfl

/-! ### What they leave alone -/

/-- An instruction that leaves the block alone returns a value, or, if it is TELEGRAM.TX, writes one sequence. -/
theorem exec_leavesReceiver {i : Instr} (h : leavesReceiver i = true) (s : State) :
    (formatOf i ≠ .telegram ∧ ∃ r, exec i s = .next (returns r s)) ∨
    (formatOf i = .telegram ∧ ∃ seq, exec i s = .next (chanWrite seq s)) := by
  cases i <;> simp only [leavesReceiver, Bool.false_eq_true] at h
  case telegramTx => exact .inr ⟨rfl, _, rfl⟩
  all_goals exact .inl ⟨nofun, _, rfl⟩

/-- Settles O58. -/
theorem pureOperationsLeaveTheBlockAlone : Obligations.PureOperationsLeaveTheBlockAlone := by
  intro i s h
  obtain ⟨hf, r, he⟩ | ⟨hf, seq, he⟩ := exec_leavesReceiver h s
  · exact ⟨_, he, rfl, fun hsent => absurd rfl hsent, fun _ => hf⟩
  · exact ⟨_, he, rfl, fun _ => hf, fun hresult => absurd rfl hresult⟩

end Sys2Proof.Machine

/-! Steps of the machine (spec 43_receiver.md sections 2 and 7; 70_reset_and_hazards.md; 20_memory.md section 1): the host's turn, the
operations that begin an attempt, and one turn of the receive loop. -/

namespace Sys2Proof.Machine

/-! ### The host's turn -/

theorem step_of_pending {s : State} {x : Stimulus} {rest : List Stimulus} (hl : s.loop = none)
    (hp : s.pending = x :: rest) : step s = takeStimulus x { s with pending := rest } := by
  simp only [step, hl, hostStep, hp]

theorem step_idle {s : State} (hl : s.loop = none) (hp : s.pending = []) : step s = .next s := by
  simp only [step, hl, hostStep, hp]

theorem fetched_ok {i : Instr} (h : wellFormed i = true) : fetched (.ok i) = .ok i := by
  rw [fetched, if_pos h]

/-- Settles O7. -/
theorem nothingPendingLeavesTheBlockIdle : Obligations.NothingPendingLeavesTheBlockIdle :=
  fun _ => step_idle

theorem takeStimulus_encoded {f : Format} {bs : List Byte} {i : Instr} (hd : decode f bs = .ok i)
    (hw : wellFormed i = true) (s : State) : takeStimulus (.encoded f bs) s = exec i s := by
  rw [takeStimulus, fetchBytes, hd, fetched_ok hw, issue]

/-- What a table word decodes to is what its bytes decode to in its format. -/
theorem decode_of_decodeTableWord {nbits w : Nat} {i : Instr} (h : decodeTableWord nbits w = some i) :
    decode (tableFormat (nbits / 8) w) (tableBytes (nbits / 8) w) = .ok i := by
  unfold decodeTableWord at h
  split at h
  · next hd => rw [hd, Option.some.inj h]
  · cases h

/-- Settles O5: with no loop running the front entry is taken, and the fetch decides what is run or refused. -/
theorem stepRunsTheFetchedInstruction : Obligations.StepRunsTheFetchedInstruction := by
  refine ⟨fun s rest f bs i hl hp hd hw => ?_, fun s rest i hl hp hw => ?_, fun s rest f bs e hl hp hd => ?_,
    fun s rest i hl hp hw => ?_, fun s nbits w i hd hw => ?_⟩
  · rw [step_of_pending hl hp, takeStimulus_encoded hd hw]
  · rw [step_of_pending hl hp, takeStimulus, fetched_ok hw, issue]
  · rw [step_of_pending hl hp, takeStimulus, fetchBytes, hd, fetched, issue]
  · rw [step_of_pending hl hp, takeStimulus, fetched, if_neg (by simp [hw]), issue]
  · rw [State.withFetchWord, step_of_pending rfl rfl, takeStimulus_encoded (decode_of_decodeTableWord hd) hw]
    rfl

/-- Settles O50. -/
theorem transportCallsRun : Obligations.TransportCallsRun :=
  fun _ _ hl => ⟨fun _ hp => step_of_pending hl hp, fun hp => step_of_pending hl hp, fun hp => step_of_pending hl hp,
    fun hp => step_of_pending hl hp, fun _ hp => step_of_pending hl hp, fun _ hp => step_of_pending hl hp⟩

/-! ### Operations that begin or await an attempt -/

theorem exec_rxRun (s : State) : exec .rxRun s = .next (beginLoop .run s) := rfl

theorem beginLoop_hunting (c : Caller) {s : State} (h : s.rxState.hunting = true) :
    beginLoop c s = { s with loop := some c } :=
  settle_hunting (s := { s with loop := some c }) h

theorem beginLoop_terminal (c : Caller) {s : State} (h : s.rxState.hunting = false) :
    beginLoop c s = { s with loop := none, result := callerResult c s } :=
  settle_terminal (s := { s with loop := some c }) h rfl

/-- Settles O18: RX.RUN sets the loop and makes its first test. -/
theorem runWaitsWhileHunting : Obligations.RunWaitsWhileHunting := by
  intro s
  constructor <;> intro hs <;> rw [exec_rxRun]
  · rw [beginLoop_hunting .run hs]
  · rw [beginLoop_terminal .run hs, callerResult]

/-- Settles O49. -/
theorem transactionsFlushSendAndStart : Obligations.TransactionsFlushSendAndStart :=
  fun _ _ _ _ _ _ => ⟨congrArg Host.Outcome.next (transaction_eq ..), congrArg Host.Outcome.next (transaction_eq ..),
    congrArg Host.Outcome.next (transaction_eq ..)⟩

/-- Settles O51: the hardware reset draws three free bytes and writes nothing else than the receiver and the loop. -/
theorem hardwareResetClearsTheReceiver : Obligations.HardwareResetClearsTheReceiver :=
  fun s => ⟨Config.freeByte s.draws, Config.freeByte (s.draws + 1), Config.freeByte (s.draws + 2), s.draws + 3, rfl⟩

/-- Settles O52. -/
theorem resetStateIsAsSpecified : Obligations.ResetStateIsAsSpecified := ⟨rfl, rfl, rfl, rfl, rfl⟩

/-! ### A turn of the receive loop -/

/-- The turn of a loop that waits while the receiver hunts: a read, RX.STEP of its answer, the loop's test. -/
theorem step_loop_next {s t : State} {c : Caller} (hc : s.loop = some c) (hh : s.rxState.hunting = true)
    (h : step s = .next t) : ∃ u, rxStep (chanRead s).1 (chanRead s).2 = .next u ∧ t = settle u := by
  obtain ⟨u, hu⟩ := rxStep_hunting (chanRead s).1 (s := (chanRead s).2) (by rw [chanRead_rxState, hh])
  rw [step_loop hc hh hu] at h
  exact ⟨u, hu, (Host.Outcome.next.inj h).symm⟩

/-- With a loop set in a terminal state there is nothing to read: the loop ends. -/
theorem step_loop_terminal {s : State} {c : Caller} (hc : s.loop = some c) (hh : s.rxState.hunting = false) :
    step s = .next (settle s) := by
  rw [step, hc]
  simp [loopStep, hh]

@[simp] theorem chanRead_result (s : State) : (chanRead s).2.result = s.result := by rw [chanRead_frame]

/-- Settles O6: a step is RX.STEP of what the read answers, from one of its three sources. -/
theorem loopStepConsumesOneReadOutcome : Obligations.LoopStepConsumesOneReadOutcome := by
  intro s c hc hh
  refine ⟨fun b bs hb t ht => ?_, fun o os hb ho t ht => ?_, fun hb ho => ?_⟩
  · have hread : chanRead s = (.byte b, { s with buffered := bs }) := by simp only [chanRead, hb]
    exact step_loop hc hh (by rw [hread, ← exec_decodeOutcome]; exact ht)
  · have hread : chanRead s = (o, { s with upcoming := os }) := by simp only [chanRead, hb, ho]
    exact step_loop hc hh (by rw [hread, ← exec_decodeOutcome]; exact ht)
  · have hread : chanRead s = (Config.freeRead s.draws, { s with draws := s.draws + 1 }) := by simp only [chanRead, hb, ho]
    obtain ⟨t, ht⟩ := rxStep_hunting (Config.freeRead s.draws) (s := { s with draws := s.draws + 1 }) hh
    exact ⟨_, t, (exec_decodeOutcome _ _).trans ht, step_loop hc hh (by rw [hread]; exact ht)⟩

/-- Settles O19: RX.STEP leaves the loop and the returned value alone, so the loop's test decides. -/
theorem loopReturnsToItsCaller : Obligations.LoopReturnsToItsCaller := by
  intro s t c hc hh hstep
  obtain ⟨u, hu, rfl⟩ := step_loop_next hc hh hstep
  have hframe := rxStep_frame hu
  have hloop : u.loop = some c := by rw [hframe, chanRead_loop, hc]
  have hresult : u.result = s.result := by rw [hframe, chanRead_result]
  rw [settle_rxState, settle_payload]
  constructor <;> intro hu
  · rw [settle_hunting hu]
    exact ⟨hloop, hresult⟩
  · rw [settle_terminal hu hloop]
    exact ⟨rfl, by cases c <;> rfl⟩

end Sys2Proof.Machine

/-! The receiver's invariant (spec 10_state.md section 8): it holds at reset, and every step keeps it. -/

namespace Sys2Proof.Machine

/-! ### The invariant of the receiver alone -/

/-- The receiver's part of the invariant: what is said of a running loop is left out. Within a turn of the loop it holds
also between the event and the loop's test, where an operation may still wait in a terminal state. -/
def RxInv (s : State) : Prop := Inv { s with loop := none }

theorem inv_iff (s : State) : Inv s ↔ RxInv s ∧ (s.loop ≠ none → s.rxState.hunting = true) := by
  constructor
  · intro h
    exact ⟨{ h with ready := fun hr => { h.ready hr with }, loop := fun hn => absurd rfl hn }, fun hn => (hunting_iff _).2 (h.loop hn)⟩
  · rintro ⟨h, hloop⟩
    exact { h with ready := fun hr => { h.ready hr with }, loop := fun hn => (hunting_iff _).1 (hloop hn) }

/-- The invariant does not look at the channel, the host, the returned value or the loop. -/
theorem RxInv.frame {s : State} (h : RxInv s) (buffered : List Byte) (upcoming : List ReadOutcome)
    (sent : List (List Byte)) (chanOpen : Bool) (masterId : Byte) (loop : Option Caller) (pending : List Stimulus)
    (result : OpResult) (draws : Nat) :
    RxInv { s with buffered, upcoming, sent, chanOpen, masterId, loop, pending, result, draws } :=
  { h with ready := fun hr => { h.ready hr with } }

/-- In `HuntingStart`, with nothing received, the invariant holds whatever is expected. -/
theorem rxInv_of_start {s : State} (hs : s.rxState = .huntingStart) (hb : s.body = []) (hp : s.escPending = false)
    (hpay : s.payload = []) : RxInv s where
  start := fun _ => ⟨hb, hp⟩
  payload := fun hn => absurd hpay hn
  ready := fun h => nomatch hs.symm.trans h
  tooShort := fun h => nomatch hs.symm.trans h
  checksum := fun h => nomatch hs.symm.trans h
  mismatch := fun h => nomatch hs.symm.trans h
  loop := fun hn => absurd rfl hn

/-- In an open frame the invariant asks only that no payload stands. -/
theorem rxInv_of_end {s : State} (hs : s.rxState = .huntingEnd) (hpay : s.payload = []) : RxInv s where
  start := fun h => nomatch hs.symm.trans h
  payload := fun hn => absurd hpay hn
  ready := fun h => nomatch hs.symm.trans h
  tooShort := fun h => nomatch hs.symm.trans h
  checksum := fun h => nomatch hs.symm.trans h
  mismatch := fun h => nomatch hs.symm.trans h
  loop := fun hn => absurd rfl hn

theorem RxInv.payload_eq_nil {s : State} (h : RxInv s) (hs : s.rxState.hunting = true) : s.payload = [] := by
  refine Classical.byContradiction fun hn => ?_
  have hready : s.rxState = .ready := h.payload hn
  rw [hready] at hs
  cases hs

/-! ### The receiver's operations keep it -/

theorem rxInv_rxClose {s : State} (hpay : s.payload = []) : RxInv (rxClose s) := by
  rcases rxClose_cases s with ⟨hlen, h⟩ | ⟨hlen, hcrc, h⟩ | ⟨hlen, hcrc, hhdr, h⟩ | ⟨hlen, hcrc, ha, ht, hr, h⟩ <;> rw [h]
  · exact { start := nofun, payload := fun hn => absurd hpay hn, ready := nofun, tooShort := fun _ => hlen
            checksum := nofun, mismatch := nofun, loop := fun hn => absurd rfl hn }
  · exact { start := nofun, payload := fun hn => absurd hpay hn, ready := nofun, tooShort := nofun
            checksum := fun _ => ⟨hlen, hcrc⟩, mismatch := nofun, loop := fun hn => absurd rfl hn }
  · exact { start := nofun, payload := fun hn => absurd hpay hn, ready := nofun, tooShort := nofun
            checksum := nofun, mismatch := fun _ => ⟨hlen, hcrc, hhdr⟩, loop := fun hn => absurd rfl hn }
  · exact { start := nofun, payload := fun _ => rfl, ready := fun _ => ⟨hlen, hcrc, ha, ht, hr, rfl⟩, tooShort := nofun
            checksum := nofun, mismatch := nofun, loop := fun hn => absurd rfl hn }

theorem rxInv_rxByte {b : Byte} {s t : State} (h : RxInv s) (ht : rxByte b s = .next t) : RxInv t := by
  rcases rxByte_next ht with ⟨hs, -, rfl⟩ | ⟨-, -, rfl⟩ | ⟨hs, -, rfl⟩ | ⟨hs, -, rfl⟩
  · exact rxInv_of_end rfl (h.payload_eq_nil (by rw [hs]; rfl))
  · exact h
  · exact rxInv_rxClose (h.payload_eq_nil (by rw [hs]; rfl))
  · exact rxInv_of_end hs (h.payload_eq_nil (by rw [hs]; rfl))

theorem rxInv_rxFail {st : RxState} (hst : st = .readTimeout ∨ st = .transportLost) {s t : State} (h : RxInv s)
    (ht : rxFail st s = .next t) : RxInv t := by
  obtain ⟨hh, rfl⟩ := rxFail_next ht
  have hpay := h.payload_eq_nil hh
  rcases hst with rfl | rfl <;>
    exact { start := nofun, payload := fun hn => absurd hpay hn, ready := nofun, tooShort := nofun
            checksum := nofun, mismatch := nofun, loop := fun hn => absurd rfl hn }

theorem rxInv_rxStep {o : ReadOutcome} {s t : State} (h : RxInv s) (ht : rxStep o s = .next t) : RxInv t := by
  cases o with
  | byte b => exact rxInv_rxByte h ht
  | timeout => exact rxInv_rxFail (.inl rfl) h ht
  | connLost => exact rxInv_rxFail (.inr rfl) h ht

theorem rxInv_settle {s : State} (h : RxInv s) : RxInv (settle s) := by
  rw [settle_frame]
  exact h.frame ..

theorem rxInv_chanRead {s : State} (h : RxInv s) : RxInv (chanRead s).2 := by
  rw [chanRead_frame]
  exact h.frame ..

/-- The loop's test gives the whole invariant: an operation that still waits does so while the receiver hunts. -/
theorem inv_settle {s : State} (h : RxInv s) : Inv (settle s) :=
  (inv_iff _).2 ⟨rxInv_settle h, fun hn => by rw [settle_rxState]; exact settle_loop_hunts hn⟩

theorem inv_beginLoop (c : Caller) {s : State} (h : RxInv s) : Inv (beginLoop c s) :=
  inv_settle (s := { s with loop := some c }) (h.frame ..)

theorem inv_transaction (c : Caller) (dest reg typeOut : Byte) (p : List Byte) (typeIn : Byte) (s : State) :
    Inv (transaction c dest reg typeOut p typeIn s) :=
  inv_beginLoop c (rxInv_of_start rfl rfl rfl rfl)

theorem inv_of_loop_none {s : State} (h : RxInv s) (hl : s.loop = none) : Inv s :=
  (inv_iff s).2 ⟨h, fun hn => absurd hl hn⟩

/-! ### Every step keeps it -/

/-- An instruction that runs with no loop running keeps the invariant. -/
theorem inv_exec {i : Instr} {s t : State} (h : RxInv s) (hl : s.loop = none) (ht : exec i s = .next t) : Inv t := by
  rcases exec_next ht with ⟨-, ht⟩ | ⟨bs, -, ht⟩ | ⟨-, ht⟩ | ⟨-, ht⟩ | ⟨a, ty, r, -, rfl⟩ | ⟨d, r, p, -, rfl⟩ | ⟨d, r, -, rfl⟩ |
    ⟨d, r, o, p, n, -, rfl⟩ | ⟨-, rfl⟩ | ⟨-, rfl⟩
  · rw [ht]
    exact inv_of_loop_none (h.frame ..) hl
  · refine inv_of_loop_none (rxBytes_keeps (fun _ _ _ => rxInv_rxByte) bs h ht) ?_
    rw [rxBytes_frame ht]
    exact hl
  · refine inv_of_loop_none (rxInv_rxFail (.inl rfl) h ht) ?_
    rw [(rxFail_next ht).2]
    exact hl
  · refine inv_of_loop_none (rxInv_rxFail (.inr rfl) h ht) ?_
    rw [(rxFail_next ht).2]
    exact hl
  · exact inv_of_loop_none (rxInv_of_start rfl rfl rfl rfl) hl
  · exact inv_transaction ..
  · exact inv_transaction ..
  · exact inv_transaction ..
  · exact inv_of_loop_none (rxInv_of_start rfl rfl rfl rfl) rfl
  · exact inv_beginLoop .run h

theorem inv_issue {f : Except Refusal Instr} {s t : State} (h : RxInv s) (hl : s.loop = none) (ht : issue f s = .next t) :
    Inv t := by
  cases f with
  | ok i => exact inv_exec h hl ht
  | error r => cases ht

theorem inv_transportCall (c : TransportCall) {s : State} (h : RxInv s) (hl : s.loop = none) : Inv (transportCall c s) := by
  cases c <;> exact inv_of_loop_none (h.frame ..) hl

theorem inv_takeStimulus {x : Stimulus} {s t : State} (h : RxInv s) (hl : s.loop = none)
    (ht : takeStimulus x s = .next t) : Inv t := by
  cases x with
  | op i => exact inv_issue h hl ht
  | encoded f bs => exact inv_issue h hl ht
  | call c => exact Host.Outcome.next.inj ht ▸ inv_transportCall c h hl
  | arrive bs => exact Host.Outcome.next.inj ht ▸ inv_of_loop_none (h.frame ..) hl

/-- Settles O54: a turn of the loop keeps the receiver's part and ends in the loop's test; a turn of the host runs an instruction, a
call or an arrival with no loop running. -/
theorem everyStepKeepsTheReceiverInvariant : Obligations.EveryStepKeepsTheReceiverInvariant := by
  intro s t h ht
  obtain ⟨hrx, hloop⟩ := (inv_iff s).1 h
  cases hl : s.loop with
  | some c =>
    obtain ⟨u, hu, rfl⟩ := step_loop_next hl (hloop (by simp [hl])) ht
    exact inv_settle (rxInv_rxStep (rxInv_chanRead hrx) hu)
  | none =>
    cases hp : s.pending with
    | nil =>
      rw [step_idle hl hp] at ht
      exact Host.Outcome.next.inj ht ▸ h
    | cons x rest =>
      rw [step_of_pending hl hp] at ht
      exact inv_takeStimulus (s := { s with pending := rest }) (hrx.frame ..) hl ht

/-- Settles O53. -/
theorem receiverInvariantHoldsAtReset : Obligations.ReceiverInvariantHoldsAtReset :=
  inv_of_loop_none (rxInv_of_start rfl rfl rfl rfl) rfl

end Sys2Proof.Machine

/-! What instructions change and what they leave alone (spec 10_state.md sections 2, 4 and 8; 20_memory.md sections 1 and 4). -/

namespace Sys2Proof.Machine

/-! ### Instructions that are the arrival of bytes -/

theorem exec_arrivalBytes {i : Instr} {bs : List Byte} (h : arrivalBytes i = some bs) (s : State) :
    exec i s = rxBytes bs s := by
  cases hi : arrivalByte i with
  | some b =>
    have hbs : bs = [b] := by cases i <;> simp_all [arrivalBytes, arrivalByte]
    rw [exec_arrivalByte hi, hbs, rxBytes_one]
  | none =>
    cases i <;> simp only [arrivalBytes, arrivalByte, Option.map_none, Option.some.injEq, reduceCtorEq] at h hi <;>
      subst h <;> rfl

/-- The arrivals are those of one byte, of a pair, of a frame; the pairs whose second byte is a delimiter have no row but
ESC.ANY. -/
theorem arrivalBytes_cases {i : Instr} {bs : List Byte} (h : arrivalBytes i = some bs) :
    (∃ b, arrivalByte i = some b ∧ bs = [b]) ∨
    (∃ c, bs = [SOE, c] ∧ (c = SOT ∨ c = EOT → i = .escAny c)) ∨
    (formatOf i = .body ∧ ∃ body, bs = wireFrame body) := by
  cases i <;> simp only [arrivalBytes, arrivalByte, Option.map_some, Option.map_none, Option.some.injEq, reduceCtorEq] at h <;>
    subst h
  case escSot => exact .inr (.inl ⟨_, rfl, by decide⟩)
  case escEot => exact .inr (.inl ⟨_, rfl, by decide⟩)
  case escSoe => exact .inr (.inl ⟨_, rfl, by decide⟩)
  case escAny c => exact .inr (.inl ⟨c, rfl, fun _ => rfl⟩)
  case bodyRx => exact .inr (.inr ⟨rfl, _, rfl⟩)
  all_goals exact .inl ⟨_, rfl, rfl⟩

theorem exists_arrivalBytes {i : Instr}
    (h : (arrivalByte i).isSome = true ∨ formatOf i = .escapePair ∨ formatOf i = .body) :
    ∃ bs, arrivalBytes i = some bs := by
  cases i <;> simp only [arrivalByte, formatOf, Option.isSome_none, Bool.false_eq_true, reduceCtorEq, or_self] at h <;>
    exact ⟨_, rfl⟩

/-- All that an instruction can do that neither starts an attempt nor resets: it leaves the block alone but for returned value,
writes and loop, or is the arrival of bytes, or a read failure. -/
theorem exec_next_of_not_starts {i : Instr} {s t : State} (h : exec i s = .next t) (hi : startsAttempt i = false) :
    t = { s with result := t.result, sent := t.sent, loop := t.loop } ∨
    (∃ bs, arrivalBytes i = some bs ∧ rxBytes bs s = .next t) ∨
    (i = .rxFailTimeout ∧ s.rxState.hunting = true ∧ t = enterTerminal .readTimeout s) ∨
    (i = .rxFailConnLost ∧ s.rxState.hunting = true ∧ t = enterTerminal .transportLost s) := by
  rcases exec_next h with ⟨-, ht⟩ | hbs | ⟨hi, ht⟩ | ⟨hi, ht⟩ | ⟨_, _, _, rfl, -⟩ | ⟨_, _, _, rfl, -⟩ | ⟨_, _, rfl, -⟩ |
    ⟨_, _, _, _, _, rfl, -⟩ | ⟨rfl, -⟩ | ⟨-, rfl⟩
  · exact .inl (ht.trans (by rw [ht]))
  · exact .inr (.inl hbs)
  · exact .inr (.inr (.inl ⟨hi, rxFail_next ht⟩))
  · exact .inr (.inr (.inr ⟨hi, rxFail_next ht⟩))
  iterate 5 · cases hi
  · exact .inl (by rw [beginLoop_frame])

/-! ### The body, the expected bytes, the receiver's state -/

theorem prefix_body_of_rxBytes {bs : List Byte} {s t : State} (hs : s.rxState = .huntingEnd) (h : rxBytes bs s = .next t) :
    s.body <+: t.body := by
  refine (rxBytes_keeps (P := fun u => s.body <+: u.body ∧ u.rxState ≠ .huntingStart) ?_ bs
    ⟨List.prefix_rfl, by simp [hs]⟩ h).1
  rintro b u v ⟨hpre, hne⟩ hv
  refine ⟨?_, rxBytes_ne_start (bs := [b]) hne (by rw [rxBytes_one, hv])⟩
  rcases rxByte_next hv with ⟨hu, -, rfl⟩ | ⟨-, -, rfl⟩ | ⟨-, -, rfl⟩ | ⟨-, -, rfl⟩
  · exact absurd hu hne
  · exact hpre
  · rw [rxClose_frame]
    exact hpre
  · exact hpre.trans (List.prefix_append ..)

/-- Settles O55: only arriving bytes write the body, and none of them opens a frame in `HuntingEnd`. -/
theorem bodyOnlyGrowsWithinAFrame : Obligations.BodyOnlyGrowsWithinAFrame := by
  intro i s t h hs hi
  obtain ht | ⟨bs, -, hbs⟩ | ⟨-, -, rfl⟩ | ⟨-, -, rfl⟩ := exec_next_of_not_starts h hi
  · have hbody : t.body = s.body := by rw [ht]
    exact hbody ▸ List.prefix_rfl
  · exact prefix_body_of_rxBytes hs hbs
  · exact List.prefix_rfl
  · exact List.prefix_rfl

/-- Settles O56: each of these instructions, and each turn of the loop, has a frame without the expected bytes. -/
theorem expectedBytesChangeOnlyAtAStart : Obligations.ExpectedBytesChangeOnlyAtAStart := by
  constructor
  · intro i s t h hi
    obtain ht | ⟨bs, -, hbs⟩ | ⟨-, -, rfl⟩ | ⟨-, -, rfl⟩ := exec_next_of_not_starts h hi
    · rw [ht]
      exact ⟨rfl, rfl, rfl⟩
    · rw [rxBytes_frame hbs]
      exact ⟨rfl, rfl, rfl⟩
    · exact ⟨rfl, rfl, rfl⟩
    · exact ⟨rfl, rfl, rfl⟩
  · intro s t hl h
    obtain ⟨c, hc⟩ := Option.ne_none_iff_exists'.1 hl
    cases hh : s.rxState.hunting with
    | true =>
      obtain ⟨u, hu, rfl⟩ := step_loop_next hc hh h
      rw [settle_expAddr, settle_expType, settle_expReg, rxStep_frame hu]
      exact ⟨chanRead_expAddr s, chanRead_expType s, chanRead_expReg s⟩
    | false =>
      rw [step_loop_terminal hc hh] at h
      obtain rfl := Host.Outcome.next.inj h
      exact ⟨settle_expAddr s, settle_expType s, settle_expReg s⟩

/-- A frame opens only by the arrival of 0x0D, alone or after a discarded 0x5E. -/
theorem arrival_of_opens {i : Instr} {bs : List Byte} {s t : State} (hi : arrivalBytes i = some bs)
    (h : rxBytes bs s = .next t) (hs : s.rxState = .huntingStart) (ht : t.rxState = .huntingEnd) :
    arrivalByte i = some SOT ∨ i = .escAny SOT := by
  obtain ⟨b, hb, rfl⟩ | ⟨c, rfl, hc⟩ | ⟨-, body, rfl⟩ := arrivalBytes_cases hi
  · rcases rxByte_next ((rxBytes_one b s).symm.trans h) with ⟨-, rfl, -⟩ | ⟨-, -, rfl⟩ | ⟨hend, -⟩ | ⟨hend, -⟩
    · exact .inl hb
    · simp [hs] at ht
    · simp [hs] at hend
    · simp [hs] at hend
  · by_cases hcs : c = SOT
    · exact .inr (hcs ▸ hc (.inl hcs))
    · rw [rxBytes_pair_start c hs, if_neg hcs] at h
      obtain rfl := Host.Outcome.next.inj h
      simp [hs] at ht
  · rw [rxBytes_wireFrame_start body hs] at h
    have hterm : t.rxState.hunting = false := Host.Outcome.next.inj h ▸ rxClose_terminal _
    simp [ht] at hterm

/-- Arriving bytes end an attempt only as a whole frame, or by a 0x0A in an open frame, alone or after a 0x5E. -/
theorem arrival_of_closes {i : Instr} {bs : List Byte} {s t : State} (hi : arrivalBytes i = some bs)
    (h : rxBytes bs s = .next t) (hs : s.rxState.hunting = true) (ht : t.rxState.hunting = false) :
    formatOf i = .body ∨ s.rxState = .huntingEnd ∧ (arrivalByte i = some EOT ∨ i = .escAny EOT) := by
  obtain ⟨b, hb, rfl⟩ | ⟨c, rfl, hc⟩ | ⟨hf, -⟩ := arrivalBytes_cases hi
  · rcases rxByte_next ((rxBytes_one b s).symm.trans h) with ⟨-, -, rfl⟩ | ⟨-, -, rfl⟩ | ⟨hend, rfl, -⟩ | ⟨-, -, rfl⟩
    · simp at ht
    · simp [hs] at ht
    · exact .inr ⟨hend, .inl hb⟩
    · simp [hs] at ht
  · rcases (hunting_iff _).1 hs with hstart | hend
    · rw [rxBytes_pair_start c hstart] at h
      obtain rfl := Host.Outcome.next.inj h
      split at ht <;> simp [hstart] at ht
    · by_cases hce : c = EOT
      · exact .inr ⟨hend, .inr (hce ▸ hc (.inr hce))⟩
      · rw [rxBytes_inFrame [SOE, c] hend (by simp [Ne.symm hce])] at h
        obtain rfl := Host.Outcome.next.inj h
        simp [hs] at ht
  · exact .inl hf

/-- Arriving bytes never end in the outcome of a read failure. -/
theorem rxBytes_ne_failed {bs : List Byte} {s t : State} (hs : s.rxState.hunting = true) (h : rxBytes bs s = .next t) :
    t.rxState ≠ .readTimeout ∧ t.rxState ≠ .transportLost := by
  refine rxBytes_keeps (P := fun u => u.rxState ≠ .readTimeout ∧ u.rxState ≠ .transportLost) ?_ bs ?_ h
  · intro b u v hu hv
    rcases rxByte_next hv with ⟨-, -, rfl⟩ | ⟨-, -, rfl⟩ | ⟨-, -, rfl⟩ | ⟨-, -, rfl⟩
    · simp
    · exact hu
    · rcases rxClose_cases u with ⟨-, e⟩ | ⟨-, -, e⟩ | ⟨-, -, -, e⟩ | ⟨-, -, -, -, -, e⟩ <;> simp [e]
    · exact hu
  · rcases (hunting_iff _).1 hs with hs | hs <;> simp [hs]

theorem rxState_of_starts {i : Instr} {s t : State} (h : exec i s = .next t) (hi : startsAttempt i = true) :
    t.rxState = .huntingStart := by
  cases i <;> simp only [startsAttempt, Bool.false_eq_true] at hi <;> exact Host.Outcome.next.inj h ▸ rfl

/-- Settles O57: starts lead to `HuntingStart`; of the rest, arriving bytes move the receiver as the lemmas above say, and a read
failure enters its own terminal state. -/
theorem receiverStateChangesOnlyAsListed : Obligations.ReceiverStateChangesOnlyAsListed := by
  refine ⟨fun i s t => rxState_of_starts, fun i s t h hi => ?_⟩
  obtain ht | ⟨bs, hbs, ht⟩ | ⟨rfl, hh, rfl⟩ | ⟨rfl, hh, rfl⟩ := exec_next_of_not_starts h hi
  · have hst : t.rxState = s.rxState := by rw [ht]
    rw [hst]
    refine ⟨fun _ => rfl, fun hs => by simp [hs], fun hs hs' => by simp [hs] at hs', fun hh hs => ?_, fun hh hs => ?_,
      fun hh hs => ?_⟩
    · rcases hs with hs | hs | hs | hs <;> simp [hs, RxState.hunting] at hh
    · simp [hs, RxState.hunting] at hh
    · simp [hs, RxState.hunting] at hh
  · refine ⟨fun hs => by rw [rxBytes_terminal hs ht], fun hs => rxBytes_ne_start (by simp [hs]) ht,
      fun hs hs' => arrival_of_opens hbs ht hs hs', fun hs hs' => arrival_of_closes hbs ht hs ?_,
      fun hs hs' => absurd hs' (rxBytes_ne_failed hs ht).1, fun hs hs' => absurd hs' (rxBytes_ne_failed hs ht).2⟩
    rcases hs' with hs' | hs' | hs' | hs' <;> rw [hs'] <;> rfl
  · simp [hh]
  · simp [hh]

/-! ### Arrivals and failures -/

/-- Settles O59. -/
theorem arrivalsWriteOnlyTheReceiver : Obligations.ArrivalsWriteOnlyTheReceiver := by
  refine fun i s t h => ⟨fun hi => ?_, fun hi => ?_⟩
  · obtain ⟨bs, hbs⟩ := exists_arrivalBytes hi
    exact rxBytes_frame ((exec_arrivalBytes hbs s).symm.trans h)
  · rcases hi with rfl | rfl <;> rw [(rxFail_next h).2] <;> rfl

/-! ### The channel and the host -/

/-- What the frame of every instruction says of the channel and the host. -/
def ChannelFrame (i : Instr) (s t : State) : Prop :=
  t.upcoming = s.upcoming ∧ t.chanOpen = s.chanOpen ∧ t.masterId = s.masterId ∧ t.pending = s.pending ∧
  s.sent <+: t.sent ∧
  (t.sent ≠ s.sent → formatOf i = .telegram ∨
    (startsAttempt i = true ∧ (∀ a ty r, i ≠ .rxStart a ty r) ∧ i ≠ .reset)) ∧
  (t.buffered = s.buffered ∨ (t.buffered = [] ∧ startsAttempt i = true ∧ (∀ a ty r, i ≠ .rxStart a ty r) ∧ i ≠ .reset))

/-- An instruction that writes only the receiver, the loop, the returned value and the draw counter. -/
theorem channelFrame_of_unchanged {i : Instr} {s t : State}
    (h : t = { t with
      upcoming := s.upcoming, chanOpen := s.chanOpen, masterId := s.masterId, pending := s.pending, sent := s.sent
      buffered := s.buffered }) : ChannelFrame i s t := by
  rw [h]
  exact ⟨rfl, rfl, rfl, rfl, List.prefix_rfl, fun hn => absurd rfl hn, .inl rfl⟩

theorem channelFrame_transaction {i : Instr} (hi : startsAttempt i = true) (hne : ∀ a ty r, i ≠ .rxStart a ty r)
    (hnr : i ≠ .reset) (c : Caller) (dest reg typeOut : Byte) (p : List Byte) (typeIn : Byte) (s : State) :
    ChannelFrame i s (transaction c dest reg typeOut p typeIn s) := by
  rw [transaction_eq]
  exact ⟨rfl, rfl, rfl, rfl, List.prefix_append .., fun _ => .inr ⟨hi, hne, hnr⟩, .inr ⟨rfl, hi, hne, hnr⟩⟩

theorem channelFrame_leavesReceiver {i : Instr} {s t : State} (hi : leavesReceiver i = true) (h : exec i s = .next t) :
    ChannelFrame i s t := by
  obtain ⟨-, r, he⟩ | ⟨hf, seq, he⟩ := exec_leavesReceiver hi s
  · obtain rfl := Host.Outcome.next.inj (he.symm.trans h)
    exact channelFrame_of_unchanged rfl
  · obtain rfl := Host.Outcome.next.inj (he.symm.trans h)
    exact ⟨rfl, rfl, rfl, rfl, List.prefix_append .., fun _ => .inl hf, .inl rfl⟩

/-- Settles O60: only a written telegram and the transactions touch the channel. -/
theorem channelAndHostFrame : Obligations.ChannelAndHostFrame := by
  intro i s t h
  change ChannelFrame i s t
  rcases exec_next h with ⟨hi, -⟩ | ⟨bs, -, ht⟩ | ⟨-, ht⟩ | ⟨-, ht⟩ | ⟨a, ty, r, -, rfl⟩ | ⟨d, r, p, rfl, rfl⟩ | ⟨d, r, rfl, rfl⟩ |
    ⟨d, r, o, p, n, rfl, rfl⟩ | ⟨-, rfl⟩ | ⟨-, rfl⟩
  · exact channelFrame_leavesReceiver hi h
  · exact channelFrame_of_unchanged (by rw [rxBytes_frame ht])
  · exact channelFrame_of_unchanged (by rw [(rxFail_next ht).2]; rfl)
  · exact channelFrame_of_unchanged (by rw [(rxFail_next ht).2]; rfl)
  · exact channelFrame_of_unchanged rfl
  · exact channelFrame_transaction rfl (by simp) (by simp) ..
  · exact channelFrame_transaction rfl (by simp) (by simp) ..
  · exact channelFrame_transaction rfl (by simp) (by simp) ..
  · exact channelFrame_of_unchanged rfl
  · exact channelFrame_of_unchanged (by rw [beginLoop_frame])

end Sys2Proof.Machine

/-! Whole receive attempts (spec 43_receiver.md section 9; 42_frame_encoder.md R93): over bytes an attempt is their arrival, and it ends at
the first EOT of the frame or at the first failed read. -/

namespace Sys2Proof.Machine

/-! ### An attempt, outcome by outcome -/

theorem attempt_cons {o : ReadOutcome} {s t : State} (os : List ReadOutcome) (hh : s.rxState.hunting = true)
    (h : rxStep o s = .next t) : attempt (o :: os) s = attempt os t := by
  simp [attempt, hh, h]

/-- In a terminal state nothing is read any more (R119 (e)). -/
theorem attempt_terminal (os : List ReadOutcome) {s : State} (hh : s.rxState.hunting = false) : attempt os s = (s, os) := by
  cases os <;> simp [attempt, hh]

theorem attempt_bytesRead {bs : List Byte} (rest : List ReadOutcome) {s t : State} (h : rxBytes bs s = .next t) :
    attempt (bytesRead bs ++ rest) s = attempt rest t := by
  induction bs generalizing s with
  | nil => rw [Host.Outcome.next.inj h]; rfl
  | cons b bs ih =>
    cases hh : s.rxState.hunting with
    | false => rw [rxBytes_cons_terminal hh] at h; cases h
    | true =>
      obtain ⟨u, hu⟩ := rxStep_hunting (.byte b) hh
      rw [rxBytes_cons hu] at h
      exact (attempt_cons _ hh hu).trans (ih h)

theorem attempt_timeout (rest : List ReadOutcome) {s : State} (hh : s.rxState.hunting = true) :
    attempt (.timeout :: rest) s = (enterTerminal .readTimeout s, rest) := by
  exact (attempt_cons (o := .timeout) rest hh (rxFail_hunting hh)).trans (attempt_terminal rest rfl)

theorem attempt_connLost (rest : List ReadOutcome) {s : State} (hh : s.rxState.hunting = true) :
    attempt (.connLost :: rest) s = (enterTerminal .transportLost s, rest) := by
  exact (attempt_cons (o := .connLost) rest hh (rxFail_hunting hh)).trans (attempt_terminal rest rfl)

/-! ### The first frame, or a failure before it closes -/

theorem attempt_closed {noise mid : List Byte} (rest : List ReadOutcome) {s : State} (hs : s.rxState = .huntingStart)
    (hnoise : SOT ∉ noise) (hmid : EOT ∉ mid) :
    attempt (bytesRead (noise ++ [SOT] ++ mid ++ [EOT]) ++ rest) s = (rxClose (inFrame mid s), rest) := by
  rw [attempt_bytesRead rest (rxBytes_closed hs hnoise hmid), attempt_terminal rest (rxClose_terminal _)]

theorem attempt_wireFrame (body : List Byte) (rest : List ReadOutcome) {s : State} (hs : s.rxState = .huntingStart) :
    attempt (bytesRead (wireFrame body) ++ rest) s =
      (rxClose { s with rxState := .huntingEnd, escPending := false, body := body }, rest) := by
  rw [attempt_bytesRead rest (rxBytes_wireFrame_start body hs), attempt_terminal rest (rxClose_terminal _)]

/-- Settles O44: the noise is discarded, the middle de-escaped, and the EOT closes the frame on it. -/
theorem attemptConsidersTheFirstFrame : Obligations.AttemptConsidersTheFirstFrame :=
  fun s _ mid rest hs hnoise hmid => ⟨(escDecFrom false mid).1, rxClose (inFrame mid s), rxByte_eot (s := inFrame mid s) rfl,
    attempt_closed rest hs hnoise hmid, rxClose_terminal _⟩

/-- Settles O45: the bytes before the failure leave a hunting state, in which it ends the attempt. -/
theorem failureBeforeTheFrameClosesEndsTheAttempt : Obligations.FailureBeforeTheFrameClosesEndsTheAttempt := by
  intro s noise mid rest hs hnoise hmid
  have hh : s.rxState.hunting = true := by rw [hs]; rfl
  refine ⟨?_, ?_, (escDecFrom false mid).1, ?_, ?_⟩
  · rw [attempt_bytesRead _ (rxBytes_noise hs hnoise), attempt_timeout rest hh, enterTerminal]
  · rw [attempt_bytesRead _ (rxBytes_noise hs hnoise), attempt_connLost rest hh, enterTerminal]
  · exact (attempt_bytesRead _ (rxBytes_open hs hnoise hmid)).trans (attempt_timeout rest rfl)
  · exact (attempt_bytesRead _ (rxBytes_open hs hnoise hmid)).trans (attempt_connLost rest rfl)

/-! ### Well-made frames -/

theorem withChecksum_take (content : List Byte) :
    (withChecksum content).take ((withChecksum content).length - 2) = content := by
  rw [withChecksum_length, Nat.add_sub_cancel, withChecksum, List.take_left]

theorem withChecksum_getElem? {content : List Byte} {j : Nat} (h : j < content.length) :
    (withChecksum content)[j]? = content[j]? := List.getElem?_append_left h

/-- A well-made frame of at least three bytes closes by its header alone. -/
theorem rxClose_withChecksum {content : List Byte} {s : State} (hb : s.body = withChecksum content)
    (hlen : 3 ≤ content.length) :
    rxClose s =
      if content[0]? = some s.expAddr ∧ content[1]? = some s.expType ∧ content[2]? = some s.expReg then
        { s with payload := content.drop 3, rxState := .ready }
      else { s with rxState := .contentMismatch } := by
  have hcrc : crcCompute s.body = 0x0000#16 := by
    rw [hb, ← crcVerify_eq_true_iff, crcVerify_withChecksum]
  rw [rxClose_of_long (by rw [hb, withChecksum_length]; omega), if_neg (Classical.not_not.2 hcrc), hb, withChecksum_take,
    withChecksum_getElem? (by omega), withChecksum_getElem? (by omega), withChecksum_getElem? (by omega), ← ite_not]
  simp only [not_or, Classical.not_not]

/-- Settles O46: the frame's body is the content with its checksum, whose header is the expected one. -/
theorem wellMadeFrameIsAccepted : Obligations.WellMadeFrameIsAccepted := by
  intro s noise content rest hs hnoise hlen ha ht hr
  have hclosed := attempt_closed rest hs hnoise (eot_not_mem_escEncSeq (withChecksum content))
  rw [inFrame_escEncSeq, rxClose_withChecksum rfl hlen, if_pos ⟨ha, ht, hr⟩] at hclosed
  exact hclosed

/-- Settles O43: the body's first three bytes are the telegram's destination, source and type, and its register is data to the
receiver. -/
theorem telegramReadBackByTheReceiver : Obligations.TelegramReadBackByTheReceiver := by
  intro dest src type reg payload a ty r s rest p body
  refine ⟨rxStart a ty r s, rfl, (attempt_wireFrame body rest rfl).trans ?_⟩
  have hheader : (([dest, src, type, reg] ++ p)[0]? = some a ∧ ([dest, src, type, reg] ++ p)[1]? = some ty ∧
      ([dest, src, type, reg] ++ p)[2]? = some r) ↔ dest = a ∧ src = ty ∧ type = r := by simp
  rw [rxClose_withChecksum (content := [dest, src, type, reg] ++ p) rfl (by simp)]
  by_cases h : dest = a ∧ src = ty ∧ type = r
  · rw [if_pos h]
    exact congrArg (·, rest) (if_pos (hheader.2 h))
  · rw [if_neg h]
    exact congrArg (·, rest) (if_neg (mt hheader.1 h))

/-! ### The running loop -/

/-- An attempt does not look at the channel's lists (R35). -/
theorem attempt_channel (os : List ReadOutcome) (s : State) (b : List Byte) (u : List ReadOutcome) :
    attempt os { s with buffered := b, upcoming := u } =
      ({ (attempt os s).1 with buffered := b, upcoming := u }, (attempt os s).2) := by
  induction os generalizing s with
  | nil => rfl
  | cons o os ih =>
    cases hh : s.rxState.hunting with
    | false => rw [attempt_terminal _ hh, attempt_terminal (s := { s with buffered := b, upcoming := u }) _ hh]
    | true =>
      obtain ⟨t, ht⟩ := rxStep_hunting o hh
      rw [attempt_cons os hh ht, ← ih t]
      exact attempt_cons (s := { s with buffered := b, upcoming := u }) os hh (rxStep_channel ht b u)

/-- What the loop still has to read: the buffered bytes, then the outcomes to come. -/
def unread (s : State) : List ReadOutcome := bytesRead s.buffered ++ s.upcoming

theorem unread_length (s : State) : (unread s).length = s.buffered.length + s.upcoming.length := by
  simp [unread, bytesRead]

/-- `u` on the channel of `s` after one read. -/
def afterRead (s u : State) : State :=
  { u with buffered := s.buffered.drop 1, upcoming := s.upcoming.drop (1 - s.buffered.length) }

/-- A read takes the first of what is unread, and leaves the rest. -/
theorem chanRead_of_unread {s : State} {o : ReadOutcome} {os : List ReadOutcome} (h : unread s = o :: os) :
    chanRead s = (o, afterRead s s) ∧ ∀ u, unread (afterRead s u) = os := by
  rcases chanRead_cases s with ⟨b, bs, hb, e⟩ | ⟨o', os', hb, ho, e⟩ | ⟨hb, ho, -⟩
  · simp_all [unread, bytesRead, afterRead]
  · simp_all [unread, bytesRead, afterRead]
  · simp [unread, bytesRead, hb, ho] at h

/-- A step of the loop is RX.STEP of the first unread outcome, the channel apart. -/
theorem step_of_unread {s u : State} {c : Caller} {o : ReadOutcome} {os : List ReadOutcome} (hc : s.loop = some c)
    (hh : s.rxState.hunting = true) (hos : unread s = o :: os) (hu : rxStep o s = .next u) :
    step s = .next (settle (afterRead s u)) := by
  refine step_loop hc hh ?_
  rw [(chanRead_of_unread hos).1]
  exact rxStep_channel hu ..

theorem run_succ (M : Host.Core) {s u : M.State} (k : Nat) (h : M.step s = .next u) : M.run (k + 1) s = M.run k u := by
  rw [Host.Core.run, h]

/-- What the loop's end returns does not depend on the channel. -/
theorem callerResult_channel (c : Caller) (s : State) (b : List Byte) (u : List ReadOutcome) :
    callerResult c { s with buffered := b, upcoming := u } = callerResult c s := by
  cases c <;> rfl

/-- What the loop leaves when it ends in `t` after `k` reads from the channel of `s`. -/
def loopEnd (c : Caller) (k : Nat) (s t : State) : State :=
  { t with
    buffered := s.buffered.drop k, upcoming := s.upcoming.drop (k - s.buffered.length)
    loop := none, result := callerResult c t }

theorem settle_afterRead {s u : State} {c : Caller} (hc : u.loop = some c) (hh : u.rxState.hunting = false) :
    settle (afterRead s u) = loopEnd c 1 s u := by
  rw [settle_terminal (s := afterRead s u) hh hc, afterRead, callerResult_channel]
  rfl

/-- Reads after the first are reads from the channel that the first leaves. -/
theorem loopEnd_afterRead (c : Caller) (k : Nat) (s u t : State) (b : List Byte) (up : List ReadOutcome) :
    loopEnd c k (afterRead s u) { t with buffered := b, upcoming := up } = loopEnd c (k + 1) s t := by
  have hdrop : 1 - s.buffered.length + (k - (s.buffered.length - 1)) = k + 1 - s.buffered.length := by omega
  simp only [loopEnd, afterRead, callerResult_channel, List.drop_drop, List.length_drop, hdrop, Nat.add_comm 1 k]

/-- The steps of a running loop are the attempt over what is unread, and end with it (R117). -/
theorem run_of_attempt {os rest : List ReadOutcome} {s t : State} {c : Caller} (hc : s.loop = some c)
    (hh : s.rxState.hunting = true) (hos : unread s = os) (hat : attempt os s = (t, rest))
    (ht : t.rxState.hunting = false) :
    ∃ k : Nat, k + rest.length = os.length ∧ Host.Core.run core k s = .next (loopEnd c k s t) := by
  induction os generalizing s t with
  | nil =>
    obtain rfl : s = t := congrArg Prod.fst hat
    simp [hh] at ht
  | cons o os ih =>
    obtain ⟨u, hu⟩ := rxStep_hunting o hh
    have hloop : u.loop = some c := by rw [rxStep_frame hu, hc]
    have hstep := step_of_unread hc hh hos hu
    rw [attempt_cons os hh hu] at hat
    cases huh : u.rxState.hunting with
    | false =>
      rw [attempt_terminal os huh] at hat
      obtain ⟨rfl, rfl⟩ := Prod.mk.inj hat
      rw [settle_afterRead hloop huh] at hstep
      exact ⟨1, Nat.add_comm .., run_succ core 0 hstep⟩
    | true =>
      rw [settle_hunting (s := afterRead s u) huh] at hstep
      have hat' := attempt_channel os u (s.buffered.drop 1) (s.upcoming.drop (1 - s.buffered.length))
      rw [hat] at hat'
      obtain ⟨k, hk, hrun⟩ := ih (s := afterRead s u) hloop huh ((chanRead_of_unread hos).2 u) hat' ht
      refine ⟨k + 1, by rw [List.length_cons]; omega, (run_succ core k hstep).trans (hrun.trans ?_)⟩
      exact congrArg Host.Outcome.next (loopEnd_afterRead ..)

/-- Settles O47. -/
theorem runningLoopIsTheAttempt : Obligations.RunningLoopIsTheAttempt := by
  intro s t c rest hc hh hat ht
  rw [← unread_length]
  exact run_of_attempt hc hh rfl hat ht

/-! ### READREGISTER -/

theorem exec_readRegister (dest reg : Byte) (s : State) :
    exec (.readRegister dest reg) s = .next (transaction .readRegister dest reg 0x04#8 [] 0x08#8 s) := rfl

/-- Settles O48: the transaction leaves the loop waiting with an empty buffer, and the attempt over what the link delivers is the one
of O46. -/
theorem readRegisterReturnsTheReplyPayload : Obligations.ReadRegisterReturnsTheReplyPayload := by
  intro s dest reg noise content rest hup hnoise hlen ha ht hr
  have hunread : unread (transaction .readRegister dest reg 0x04#8 [] 0x08#8 s) = _ := hup
  have hat := wellMadeFrameIsAccepted (transaction .readRegister dest reg 0x04#8 [] 0x08#8 s) noise content rest rfl hnoise
    hlen ha ht hr
  obtain ⟨k, hk, hrun⟩ := run_of_attempt (c := .readRegister) rfl rfl hunread hat rfl
  refine ⟨_, _, k, exec_readRegister dest reg s, hrun, rfl, rfl, rfl, List.drop_nil, ?_, rfl⟩
  rw [List.length_append, Nat.add_right_cancel_iff] at hk
  change s.upcoming.drop k = rest
  rw [hup, hk, List.drop_left]

end Sys2Proof.Machine
